-- ==== Sys2Proof/Word.lean ====
section
/-! DEFINITION. The word types of the core: bytes, port words, weight words, bit sequences and texts (00_scope.md R6 to R8). -/

namespace Sys2Proof

/-- A symbol: one 8-bit byte (R6). -/
abbrev Byte := BitVec 8

/-- A 32-bit word: a command word, a Q1.31 weight, a 32-bit register (R31, R80). -/
abbrev Word32 := BitVec 32

/-- A host-port register value (R22). -/
abbrev Word64 := BitVec 64

/-- A bit stream: a finite sequence of bits, index 0 first (R6, R8). -/
abbrev BitSeq := List Bool

/-- A text: a finite sequence of symbols, index 0 first (R6, R8). -/
abbrev Text := List Byte

/-- The 4-bit buffer field of a command word; its value is the buffer index (R80, R83). -/
abbrev BufIdx := BitVec 4

end Sys2Proof
end

