-- ==== Sys2Proof/Config.lean ====
section
/-! DEFINITION. The implementation parameters of the core (00_scope.md R5): the four capacities an instance fixes, their
constraints and defaults, and the two values the spec fixes for every instance. -/

namespace Sys2Proof

/-- The parameters an instance of the core fixes (R5). State carries them in its read-only CAP registers (R41). -/
structure Params where
  /-- NBS, the number of bit-stream buffers. -/
  nbs  : Nat
  /-- NTB, the number of text buffers. -/
  ntb  : Nat
  /-- BCAP, the capacity of each bit-stream buffer in bits. -/
  bcap : Nat
  /-- TCAP, the capacity of each text buffer in bytes. -/
  tcap : Nat
  deriving DecidableEq, Repr

/-- The default instance (R5): four buffers of each kind, 2^24 bits, 2^16 bytes. -/
def Params.default : Params := { nbs := 4, ntb := 4, bcap := 2 ^ 24, tcap := 2 ^ 16 }

/-- The constraints R5 puts on the parameters. -/
abbrev Params.ok (p : Params) : Prop :=
  1 ≤ p.nbs ∧ p.nbs ≤ 16 ∧ 1 ≤ p.ntb ∧ p.ntb ≤ 16 ∧
  64 ≤ p.bcap ∧ p.bcap ≤ 2 ^ 32 - 1 ∧ 1 ≤ p.tcap ∧ p.tcap ≤ 2 ^ 32 - 1

/-- NSYM_MAX, the maximum alphabet size (R5). -/
def Config.nsymMax : Nat := 256

/-- P, the range coder's precision in bits (R5). -/
def Config.precision : Nat := 53

end Sys2Proof
end

