-- ==== Sys2Proof/Syntax.lean ====
section
/-! DEFINITION. The commands of the core: one constructor per row of the opcode table (30_encoding.md R86).
`a` is field A and `b` is field B of the command word; the codec is part of the constructor (R84). -/

namespace Sys2Proof

/-- A command of the core: the rows of R86, in the table's order. -/
inductive Instr where
  /-- NOP (R100) -/
  | nop
  /-- REG_RD (R101) -/
  | regRd
  /-- REG_WR (R102) -/
  | regWr
  /-- BS_CLEAR (R130): `a` a bit-stream buffer -/
  | bsClear (a : BufIdx)
  /-- BS_APPB (R131) -/
  | bsAppb (a : BufIdx)
  /-- BS_APPU8 (R132) -/
  | bsAppu8 (a : BufIdx)
  /-- BS_APPU16 (R133) -/
  | bsAppu16 (a : BufIdx)
  /-- BS_APPU32 (R134) -/
  | bsAppu32 (a : BufIdx)
  /-- BS_APPU64 (R135) -/
  | bsAppu64 (a : BufIdx)
  /-- BS_CAT (R136): `a` the destination, `b` the source, both bit-stream buffers -/
  | bsCat (a b : BufIdx)
  /-- BS_APPT (R137): `a` a bit-stream buffer, `b` a text buffer -/
  | bsAppt (a b : BufIdx)
  /-- BS_POP (R138) -/
  | bsPop (a : BufIdx)
  /-- BS_GET (R139) -/
  | bsGet (a : BufIdx)
  /-- BS_SET (R140) -/
  | bsSet (a : BufIdx)
  /-- BS_LEN (R141) -/
  | bsLen (a : BufIdx)
  /-- BS_RENDER (R142): `a` a text buffer, `b` a bit-stream buffer -/
  | bsRender (a b : BufIdx)
  /-- TX_CLEAR (R160): `a` a text buffer -/
  | txClear (a : BufIdx)
  /-- TX_PUSH (R161) -/
  | txPush (a : BufIdx)
  /-- TX_GET (R162) -/
  | txGet (a : BufIdx)
  /-- TX_SET (R163) -/
  | txSet (a : BufIdx)
  /-- TX_LEN (R164) -/
  | txLen (a : BufIdx)
  /-- ST_STAGE (R110) -/
  | stStage
  /-- ST_BUILD (R111) -/
  | stBuild
  /-- ST_SIZE (R112) -/
  | stSize
  /-- ST_SYMAT (R113) -/
  | stSymat
  /-- ST_INDEXOF (R114) -/
  | stIndexof
  /-- ST_PROBAT (R115) -/
  | stProbat
  /-- ENC.FIXED (R175): `a` the bit-stream destination, `b` the text source -/
  | encFixed (a b : BufIdx)
  /-- DEC.FIXED (R176): `a` the text destination, `b` the bit-stream source -/
  | decFixed (a b : BufIdx)
  /-- AVG.FIXED (R177) -/
  | avgFixed
  /-- ENC.BLOCK (R179) -/
  | encBlock (a b : BufIdx)
  /-- DEC.BLOCK (R180) -/
  | decBlock (a b : BufIdx)
  /-- AVG.BLOCK (R181) -/
  | avgBlock
  /-- ENC.HUF (R200) -/
  | encHuf (a b : BufIdx)
  /-- DEC.HUF (R201) -/
  | decHuf (a b : BufIdx)
  /-- AVG.HUF (R202) -/
  | avgHuf
  /-- PREP.HUF (R203) -/
  | prepHuf
  /-- ENC.SF (R220) -/
  | encSf (a b : BufIdx)
  /-- DEC.SF (R221) -/
  | decSf (a b : BufIdx)
  /-- AVG.SF (R222) -/
  | avgSf
  /-- PREP.SF (R223) -/
  | prepSf
  /-- ENC.ARITH (R245) -/
  | encArith (a b : BufIdx)
  /-- DEC.ARITH (R246) -/
  | decArith (a b : BufIdx)
  /-- PREP.ARITH (R247) -/
  | prepArith
  /-- ENC.LZ77 (R270) -/
  | encLz77 (a b : BufIdx)
  /-- DEC.LZ77 (R271) -/
  | decLz77 (a b : BufIdx)
  /-- ENC.LZW (R290) -/
  | encLzw (a b : BufIdx)
  /-- DEC.LZW (R291) -/
  | decLzw (a b : BufIdx)
  deriving DecidableEq, Repr

end Sys2Proof
end

