-- ==== Sys2Proof/WellFormed.lean ====
section
/-! DEFINITION. Well-formed commands of an instance: every buffer field names a buffer the instance has
(30_encoding.md R83; 20_memory.md R71). A command word can hold an ill-formed command; running it raises
ILLEGAL(BAD_BUFFER). -/

namespace Sys2Proof

/-- The bit-stream buffers a command names in its fields (kind `b` of R86). -/
def Instr.bsFields : Instr → List BufIdx
  | .bsClear a | .bsAppb a | .bsAppu8 a | .bsAppu16 a | .bsAppu32 a | .bsAppu64 a => [a]
  | .bsCat a b => [a, b]
  | .bsAppt a _ => [a]
  | .bsPop a | .bsGet a | .bsSet a | .bsLen a => [a]
  | .bsRender _ b => [b]
  | .encFixed a _ | .encBlock a _ | .encHuf a _ | .encSf a _ | .encArith a _ | .encLz77 a _ | .encLzw a _ => [a]
  | .decFixed _ b | .decBlock _ b | .decHuf _ b | .decSf _ b | .decArith _ b | .decLz77 _ b | .decLzw _ b => [b]
  | .txClear _ | .txPush _ | .txGet _ | .txSet _ | .txLen _ => []
  | .nop | .regRd | .regWr | .stStage | .stBuild | .stSize | .stSymat | .stIndexof | .stProbat => []
  | .avgFixed | .avgBlock | .avgHuf | .prepHuf | .avgSf | .prepSf | .prepArith => []

/-- The text buffers a command names in its fields (kind `t` of R86). -/
def Instr.txFields : Instr → List BufIdx
  | .txClear a | .txPush a | .txGet a | .txSet a | .txLen a => [a]
  | .bsAppt _ b => [b]
  | .bsRender a _ => [a]
  | .encFixed _ b | .encBlock _ b | .encHuf _ b | .encSf _ b | .encArith _ b | .encLz77 _ b | .encLzw _ b => [b]
  | .decFixed a _ | .decBlock a _ | .decHuf a _ | .decSf a _ | .decArith a _ | .decLz77 a _ | .decLzw a _ => [a]
  | .bsClear _ | .bsAppb _ | .bsAppu8 _ | .bsAppu16 _ | .bsAppu32 _ | .bsAppu64 _ => []
  | .bsCat _ _ | .bsPop _ | .bsGet _ | .bsSet _ | .bsLen _ => []
  | .nop | .regRd | .regWr | .stStage | .stBuild | .stSize | .stSymat | .stIndexof | .stProbat => []
  | .avgFixed | .avgBlock | .avgHuf | .prepHuf | .avgSf | .prepSf | .prepArith => []

/-- A command is well formed for an instance when every buffer it names exists there (R83). -/
def Instr.wellFormed (p : Params) (i : Instr) : Bool :=
  i.bsFields.all (fun a => decide (a.toNat < p.nbs)) && i.txFields.all (fun a => decide (a.toNat < p.ntb))

end Sys2Proof
end

