-- ==== Sys2Proof/Decode.lean ====
section
/-! DEFINITION. Decoding and encoding of command words (30_encoding.md R80 to R88). The opcode map is a list of rows,
each a match value, a mask and the command it stands for; a word decodes to the row it matches and is rejected as
BAD_OPCODE when there is none. Words are transferred whole, so there is no byte order to apply (20_memory.md R62). -/

namespace Sys2Proof

/-- Why a word is no command (R82). -/
inductive DecodeError where
  /-- ILLEGAL(BAD_OPCODE): no row of the opcode table matches. -/
  | badOpcode
  deriving DecidableEq, Repr

/-- Field OPC, bits 7:0 (R80). -/
def opcField (w : Word32) : BitVec 8 := w.extractLsb' 0 8

/-- Field A, bits 11:8 (R80). -/
def aField (w : Word32) : BufIdx := w.extractLsb' 8 4

/-- Field B, bits 15:12 (R80). -/
def bField (w : Word32) : BufIdx := w.extractLsb' 12 4

/-- Field C, bits 19:16 (R80). -/
def cField (w : Word32) : BitVec 4 := w.extractLsb' 16 4

/-- Field RSV, bits 31:20 (R80). -/
def rsvField (w : Word32) : BitVec 12 := w.extractLsb' 20 12

/-- What of A and B a row leaves free, with the command built from them (R86's masks). -/
inductive RowShape where
  /-- no free field, mask 0xFFFFFFFF -/
  | none (i : Instr)
  /-- field A only, mask 0xFFFFF0FF -/
  | a (mk : BufIdx → Instr)
  /-- fields A and B, mask 0xFFFF00FF -/
  | ab (mk : BufIdx → BufIdx → Instr)

/-- The mask of a row's shape (R86). -/
def rowMask : RowShape → Word32
  | .none _ => 0xFFFFFFFF#32
  | .a _    => 0xFFFFF0FF#32
  | .ab _   => 0xFFFF00FF#32

/-- The command a row's shape builds from a word's fields. -/
def rowInstr (w : Word32) : RowShape → Instr
  | .none i => i
  | .a mk   => mk (aField w)
  | .ab mk  => mk (aField w) (bField w)

/-- The rows of R86 for the control, bit-stream and text commands. -/
def opRowsBuffers : List (Word32 × RowShape) :=
  [ (0x00000000#32, .none .nop), (0x00000001#32, .none .regRd), (0x00000002#32, .none .regWr),
    (0x00000010#32, .a .bsClear), (0x00000011#32, .a .bsAppb), (0x00000012#32, .a .bsAppu8),
    (0x00000013#32, .a .bsAppu16), (0x00000014#32, .a .bsAppu32), (0x00000015#32, .a .bsAppu64),
    (0x00000016#32, .ab .bsCat), (0x00000017#32, .ab .bsAppt), (0x00000018#32, .a .bsPop),
    (0x00000019#32, .a .bsGet), (0x0000001A#32, .a .bsSet), (0x0000001B#32, .a .bsLen),
    (0x0000001C#32, .ab .bsRender),
    (0x00000020#32, .a .txClear), (0x00000021#32, .a .txPush), (0x00000022#32, .a .txGet),
    (0x00000023#32, .a .txSet), (0x00000024#32, .a .txLen) ]

/-- The rows of R86 for the symbol table and the FIXED, BLOCK, HUF codecs. -/
def opRowsTable : List (Word32 × RowShape) :=
  [ (0x00000030#32, .none .stStage), (0x00000031#32, .none .stBuild), (0x00000032#32, .none .stSize),
    (0x00000033#32, .none .stSymat), (0x00000034#32, .none .stIndexof), (0x00000035#32, .none .stProbat),
    (0x00000040#32, .ab .encFixed), (0x00000041#32, .ab .decFixed), (0x00000042#32, .none .avgFixed),
    (0x00010040#32, .ab .encBlock), (0x00010041#32, .ab .decBlock), (0x00010042#32, .none .avgBlock),
    (0x00020040#32, .ab .encHuf), (0x00020041#32, .ab .decHuf), (0x00020042#32, .none .avgHuf),
    (0x00020043#32, .none .prepHuf) ]

/-- The rows of R86 for the SF, ARITH, LZ77 and LZW codecs. -/
def opRowsCodecs : List (Word32 × RowShape) :=
  [ (0x00030040#32, .ab .encSf), (0x00030041#32, .ab .decSf), (0x00030042#32, .none .avgSf),
    (0x00030043#32, .none .prepSf),
    (0x00040040#32, .ab .encArith), (0x00040041#32, .ab .decArith), (0x00040043#32, .none .prepArith),
    (0x00050040#32, .ab .encLz77), (0x00050041#32, .ab .decLz77),
    (0x00060040#32, .ab .encLzw), (0x00060041#32, .ab .decLzw) ]

/-- The opcode map: the 48 rows of R86. -/
def opRows : List (Word32 × RowShape) := opRowsBuffers ++ (opRowsTable ++ opRowsCodecs)

/-- A word matches a row when `(word & mask) = match` (R82). -/
def rowMatches (w : Word32) (row : Word32 × RowShape) : Bool := (w &&& rowMask row.2) == row.1

/-- The decode procedure of R88: the row the word matches, else BAD_OPCODE. -/
def decode (w : Word32) : Except DecodeError Instr :=
  match opRows.find? (rowMatches w) with
  | some row => .ok (rowInstr w row.2)
  | none => .error .badOpcode

/-- The host's view of the decoder: the word's bits above `nbits` are 0, and a command is 32 bits (R80). -/
def decodeTableWord (nbits w : Nat) : Option Instr :=
  match decode (BitVec.ofNat 32 (w % 2 ^ nbits)) with
  | .ok i => some i
  | .error _ => none

/-- A command word from its fields, RSV = 0 (R80). -/
def assemble (c : BitVec 4) (b a : BufIdx) (opc : BitVec 8) : Word32 :=
  BitVec.ofNat 32 (opc.toNat + 2 ^ 8 * a.toNat + 2 ^ 12 * b.toNat + 2 ^ 16 * c.toNat)

/-- The command word of a command, field by field from R80 and R86. -/
def encode : Instr → Word32
  | .nop => assemble 0 0 0 0x00
  | .regRd => assemble 0 0 0 0x01
  | .regWr => assemble 0 0 0 0x02
  | .bsClear a => assemble 0 0 a 0x10
  | .bsAppb a => assemble 0 0 a 0x11
  | .bsAppu8 a => assemble 0 0 a 0x12
  | .bsAppu16 a => assemble 0 0 a 0x13
  | .bsAppu32 a => assemble 0 0 a 0x14
  | .bsAppu64 a => assemble 0 0 a 0x15
  | .bsCat a b => assemble 0 b a 0x16
  | .bsAppt a b => assemble 0 b a 0x17
  | .bsPop a => assemble 0 0 a 0x18
  | .bsGet a => assemble 0 0 a 0x19
  | .bsSet a => assemble 0 0 a 0x1A
  | .bsLen a => assemble 0 0 a 0x1B
  | .bsRender a b => assemble 0 b a 0x1C
  | .txClear a => assemble 0 0 a 0x20
  | .txPush a => assemble 0 0 a 0x21
  | .txGet a => assemble 0 0 a 0x22
  | .txSet a => assemble 0 0 a 0x23
  | .txLen a => assemble 0 0 a 0x24
  | .stStage => assemble 0 0 0 0x30
  | .stBuild => assemble 0 0 0 0x31
  | .stSize => assemble 0 0 0 0x32
  | .stSymat => assemble 0 0 0 0x33
  | .stIndexof => assemble 0 0 0 0x34
  | .stProbat => assemble 0 0 0 0x35
  | .encFixed a b => assemble 0 b a 0x40
  | .decFixed a b => assemble 0 b a 0x41
  | .avgFixed => assemble 0 0 0 0x42
  | .encBlock a b => assemble 1 b a 0x40
  | .decBlock a b => assemble 1 b a 0x41
  | .avgBlock => assemble 1 0 0 0x42
  | .encHuf a b => assemble 2 b a 0x40
  | .decHuf a b => assemble 2 b a 0x41
  | .avgHuf => assemble 2 0 0 0x42
  | .prepHuf => assemble 2 0 0 0x43
  | .encSf a b => assemble 3 b a 0x40
  | .decSf a b => assemble 3 b a 0x41
  | .avgSf => assemble 3 0 0 0x42
  | .prepSf => assemble 3 0 0 0x43
  | .encArith a b => assemble 4 b a 0x40
  | .decArith a b => assemble 4 b a 0x41
  | .prepArith => assemble 4 0 0 0x43
  | .encLz77 a b => assemble 5 b a 0x40
  | .decLz77 a b => assemble 5 b a 0x41
  | .encLzw a b => assemble 6 b a 0x40
  | .decLzw a b => assemble 6 b a 0x41

end Sys2Proof
end

