-- ==== Sys2Proof/Machine/State.lean ====
section
/-! DEFINITION. The state of the machine as plain data: everything 10_state.md gives the core, with the two fields of the
model's own (`turns` and `hostSaw`, notes 1 and 2), and the state after reset (70_reset_and_hazards.md R330). -/

namespace Sys2Proof.Machine

/-- The errors a command can raise (60_exceptions.md R301), one constructor per detail code. Each ends only its own
command (R304), so none of them stops the machine. -/
inductive Err where
  /-- CONFIG(LENGTH_MISMATCH), ST_BUILD -/
  | lengthMismatch
  /-- CONFIG(SUM_TOLERANCE), ST_BUILD -/
  | sumTolerance
  /-- CONFIG(TOO_MANY), ST_BUILD -/
  | tooMany
  /-- CONFIG(NO_TABLE), every command that needs a table -/
  | noTable
  /-- CONFIG(NO_EOM), ARITH and LZW -/
  | noEom
  /-- CONFIG(NO_STATE), decoders and averages -/
  | noState
  /-- LOOKUP(SYMBOL_ABSENT), ST_INDEXOF and the encoders -/
  | symbolAbsent
  /-- LOOKUP(NO_CODE), ENC.SF -/
  | noCode
  /-- FORMAT(LENGTH), decoders -/
  | formatLength
  /-- FORMAT(CODE_RANGE), decoders -/
  | codeRange
  /-- FORMAT(CANDIDATES), DEC.SF -/
  | candidates
  /-- FORMAT(NOT_AT_ROOT), DEC.HUF -/
  | notAtRoot
  /-- FORMAT(DISTANCE), DEC.LZ77 -/
  | distance
  /-- FORMAT(LEAF_BIT), DEC.HUF of a one-symbol table -/
  | leafBit
  /-- INTERNAL(I_INTERVAL), the range coder -/
  | iInterval
  /-- ILLEGAL(BAD_OPCODE), a word no row matches -/
  | badOpcode
  /-- ILLEGAL(BAD_BUFFER), a buffer field at or beyond NBS or NTB -/
  | badBuffer
  /-- ILLEGAL(BAD_REGISTER), a reserved register number -/
  | badRegister
  /-- ILLEGAL(READ_ONLY), REG_WR of a read-only register -/
  | readOnly
  /-- CAPACITY(BS_FULL) -/
  | bsFull
  /-- CAPACITY(TX_FULL) -/
  | txFull
  /-- RANGE(INDEX) -/
  | index
  /-- RANGE(EMPTY), BS_POP -/
  | empty
  /-- RANGE(STAGE_INDEX), ST_STAGE -/
  | stageIndex
  deriving DecidableEq, Repr

/-- The fields of STATUS (R26). The reserved bits have no storage: they read 0. -/
structure Status where
  err    : BitVec 4
  detail : BitVec 8
  busy   : Bool
  ovr    : Bool
  anyErr : Bool
  lastOp : BitVec 8
  deriving DecidableEq, Repr

/-- The two buffer spaces (R29, R30): BS[0..NBS-1] and TX[0..NTB-1], each buffer a whole sequence. -/
structure Memory where
  bs : List BitSeq
  tx : List Text
  deriving DecidableEq, Repr

/-- The form the buffer spaces keep: as many buffers as the instance has, none longer than its capacity (R29, R30, R67). -/
abbrev Memory.wf (p : Params) (m : Memory) : Prop :=
  m.bs.length = p.nbs ∧ m.tx.length = p.ntb ∧ (∀ x ∈ m.bs, x.length ≤ p.bcap) ∧ (∀ x ∈ m.tx, x.length ≤ p.tcap)

/-- The staging arrays STG_SYM and STG_W (R31). -/
structure Staging where
  sym : Vector Byte 256
  w   : Vector Word32 256
  deriving DecidableEq, Repr

/-- The symbol table (R32): ST_VALID, ST_N, ST_SYM, ST_W, ST_SUM. -/
structure Table where
  valid : Bool
  n     : BitVec 9
  sym   : Vector Byte 256
  w     : Vector Word32 256
  sum   : Word32
  deriving DecidableEq, Repr

/-- The stored bits of the VALID register (R43); bits 0 and 1 are hard-wired to 1 and have no storage. -/
structure Valid where
  huf   : Bool
  sf    : Bool
  arith : Bool
  lz77  : Bool
  lzw   : Bool
  deriving DecidableEq, Repr

/-- The Huffman state (R45): HUF_N, HUF_C0, HUF_C1 (indexed by a 9-bit node id), HUF_ROOT, HUF_LEN, HUF_CODE. -/
structure HufState where
  n    : BitVec 9
  c0   : Vector (BitVec 9) 512
  c1   : Vector (BitVec 9) 512
  root : BitVec 9
  len  : Vector (BitVec 8) 256
  code : Vector BitSeq 256
  deriving DecidableEq, Repr

/-- The Shannon-Fano state (R46): SF_LEN and SF_CODE. -/
structure SfState where
  len  : Vector (BitVec 6) 256
  code : Vector Word32 256
  deriving DecidableEq, Repr

/-- The arithmetic state (R47): AR_N and AR_CUM[0..256]. -/
structure ArState where
  n   : BitVec 9
  cum : Vector Word32 257
  deriving DecidableEq, Repr

/-- One access of the host to the port (R22): a 64-bit read or write at a byte offset. -/
inductive HostAccess where
  | read (off : Nat)
  | write (off : Nat) (v : Word64)
  deriving DecidableEq, Repr

/-- Who moves next (note 1): the host with one access, the core sequencer (R340), or the platform's reset input (R330). -/
inductive Turn where
  | host (a : HostAccess)
  | sequencer
  | reset
  deriving DecidableEq, Repr

/-- The faults of a step: there are none. Every error of the spec ends its own command and the core goes on
(60_exceptions.md R304), so no step of this machine stops it; the type is empty. Safe. -/
inductive Fault where
  deriving DecidableEq, Repr

/-- The refusals of a step. -/
inductive Refusal where
  /-- Raised by an arm of `exec` for a command without a meaning. No arm does: every command is modelled. Safe. -/
  | notModelled (mnemonic : String)
  deriving DecidableEq, Repr

/-- The state of the machine (R20). -/
structure State where
  /-- CAP_NBS, CAP_NTB, CAP_BCAP, CAP_TCAP (R41): the instance's parameters, which no step changes. -/
  cap           : Params
  arg0          : Word64
  arg1          : Word64
  arg2          : Word64
  res0          : Word64
  res1          : Word64
  /-- L_CMD, the latched command word (R28). -/
  lCmd          : Word32
  /-- L_ARG, the latched operands (R28). -/
  lArg0         : Word64
  lArg1         : Word64
  lArg2         : Word64
  status        : Status
  cmdCount      : Word32
  mem           : Memory
  staging       : Staging
  table         : Table
  eom           : Byte
  valid         : Valid
  lz77Window    : Word32
  lz77Lookahead : Word32
  lzwBlocksize  : BitVec 6
  lzwDictsize   : Word64
  huf           : HufState
  sf            : SfState
  ar            : ArState
  /-- The model's own: what moves next, in order (note 1). With none left, the sequencer moves. -/
  turns         : List Turn
  /-- The model's own: the values the host's reads returned, newest first (note 2). -/
  hostSaw       : List Word64
  deriving DecidableEq, Repr

/-- STATUS after reset: all fields 0 (R26). -/
def Status.reset : Status :=
  { err := 0, detail := 0, busy := false, ovr := false, anyErr := false, lastOp := 0 }

/-- Every buffer empty (R29, R30). -/
def Memory.reset (p : Params) : Memory :=
  { bs := List.replicate p.nbs [], tx := List.replicate p.ntb [] }

/-- The staging arrays after reset (R31). -/
def Staging.reset : Staging := { sym := Vector.replicate 256 0, w := Vector.replicate 256 0 }

/-- The symbol table after reset (R32). -/
def Table.reset : Table :=
  { valid := false, n := 0, sym := Vector.replicate 256 0, w := Vector.replicate 256 0, sum := 0 }

/-- VALID after reset reads 0b0000011 (R43). -/
def Valid.reset : Valid := { huf := false, sf := false, arith := false, lz77 := false, lzw := false }

/-- The Huffman state at reset: unspecified and unobservable in the spec (R45, R330).
DESIGN CHOICE: zero (note 4). -/
def HufState.reset : HufState :=
  { n := 0, c0 := Vector.replicate 512 0, c1 := Vector.replicate 512 0, root := 0,
    len := Vector.replicate 256 0, code := Vector.replicate 256 [] }

/-- The Shannon-Fano state at reset: unspecified and unobservable in the spec (R46, R330).
DESIGN CHOICE: zero (note 4). -/
def SfState.reset : SfState := { len := Vector.replicate 256 0, code := Vector.replicate 256 0 }

/-- The arithmetic state at reset: unspecified and unobservable in the spec (R47, R330).
DESIGN CHOICE: zero (note 4). -/
def ArState.reset : ArState := { n := 0, cum := Vector.replicate 257 0 }

/-- The state right after reset of an instance with parameters `p` (R330). -/
def State.resetFor (p : Params) : State :=
  { cap := p,
    arg0 := 0, arg1 := 0, arg2 := 0, res0 := 0, res1 := 0,
    lCmd := 0, lArg0 := 0, lArg1 := 0, lArg2 := 0,
    status := Status.reset, cmdCount := 0,
    mem := Memory.reset p, staging := Staging.reset, table := Table.reset,
    eom := 0, valid := Valid.reset,
    lz77Window := 0, lz77Lookahead := 0, lzwBlocksize := 0, lzwDictsize := 0,
    huf := HufState.reset, sf := SfState.reset, ar := ArState.reset,
    turns := [], hostSaw := [] }

/-- The state right after reset of the default instance (R5, R330). -/
def State.reset : State := State.resetFor Params.default

end Sys2Proof.Machine
end

