-- ==== Sys2Proof/Machine/Ops.lean ====
section
/-! DEFINITION. The named operations every command is built from: sequences and integers (00_scope.md R7 to R13, R18), the
buffers (R14), the symbol table (R16), and the way a command ends (R15, 60_exceptions.md R313). -/

namespace Sys2Proof.Machine

/-! ### Integers and sequences -/

/-- `UBits(v, w)` (R10): the `w` low bits of `v`, most significant first. -/
def uBits (v : Nat) : Nat → BitSeq
  | 0 => []
  | w + 1 => v.testBit w :: uBits v w

/-- `UVal(bs)` (R10): the value of a bit sequence, most significant bit first. -/
def uVal (bs : BitSeq) : Nat := bs.foldl (fun acc b => 2 * acc + b.toNat) 0

/-- `clog2(x)` (R11): 0 for `x <= 1`, else the least `k` with `2^k >= x`. -/
def clog2 (x : Nat) : Nat := if x ≤ 1 then 0 else Nat.log2 (x - 1) + 1

/-- The threshold table `LNT[k] = ceil(e^k)` of R12, for k = 0..22. -/
def lnThresholds : List Nat :=
  [1, 3, 8, 21, 55, 149, 404, 1097, 2981, 8104, 22027, 59875, 162755, 442414, 1202605, 3269018,
   8886111, 24154953, 65659970, 178482301, 485165196, 1318815735, 3584912847]

/-- `FloorLn(n)` (R12): the greatest `k` in 0..22 with `n >= LNT[k]`. -/
def floorLn (n : Nat) : Nat := (lnThresholds.takeWhile (fun t => decide (t ≤ n))).length - 1

/-- `ICbrt(n)` (R13): the greatest `w` with `w^3 <= n`. -/
def iCbrt (n : Nat) : Nat := Nat.findGreatest (fun w => w ^ 3 ≤ n) n

/-- `StableSortDesc(ws)` (R18): the indices 0..n-1 by weight, greatest first, equal weights in ascending index order. -/
def stableSortDesc (ws : List Nat) : List Nat :=
  (List.range ws.length).insertionSort (fun i j => ws.getD j 0 ≤ ws.getD i 0)

/-- The first `k` groups of `w` bits of a stream, in order. -/
def bitGroups (w : Nat) : Nat → BitSeq → List BitSeq
  | 0, _ => []
  | k + 1, bs => bs.take w :: bitGroups w k (bs.drop w)

/-- The bytes of a text as bits, 8 per byte, most significant first (R137, R175). -/
def textBits (t : Text) : BitSeq := t.flatMap (fun c => uBits c.toNat 8)

/-- An array of `m` entries whose first ones are `l` and whose others are `d`. -/
def fillVec {α : Type} (m : Nat) (d : α) (l : List α) : Vector α m :=
  ⟨((l ++ List.replicate m d).take m).toArray, by simp⟩

/-- An array whose first `k` entries are those of `new` and whose others stay as in `old` (R111's partial copies). -/
def copyFirst {α : Type} {m : Nat} (k : Nat) (new old : Vector α m) : Vector α m :=
  ⟨(new.toList.take k ++ old.toList.drop k).toArray, by simp; omega⟩

/-! ### Buffers (R14) -/

/-- `BS[b]`. -/
def Memory.getBs (m : Memory) (b : BufIdx) : BitSeq := m.bs.getD b.toNat []

/-- `BS[b] <- v`. -/
def Memory.setBs (m : Memory) (b : BufIdx) (v : BitSeq) : Memory := { m with bs := m.bs.set b.toNat v }

/-- `TX[t]`. -/
def Memory.getTx (m : Memory) (t : BufIdx) : Text := m.tx.getD t.toNat []

/-- `TX[t] <- v`. -/
def Memory.setTx (m : Memory) (t : BufIdx) (v : Text) : Memory := { m with tx := m.tx.set t.toNat v }

/-- Replace a bit-stream buffer of the state. -/
def State.putBs (s : State) (b : BufIdx) (v : BitSeq) : State := { s with mem := s.mem.setBs b v }

/-- Replace a text buffer of the state. -/
def State.putTx (s : State) (t : BufIdx) (v : Text) : State := { s with mem := s.mem.setTx t v }

/-- Append bits to a bit-stream buffer, refused whole when it does not fit (R61, R67). -/
def appendBits (a : BufIdx) (bits : BitSeq) (s : State) : Except Err State :=
  if s.cap.bcap < (s.mem.getBs a).length + bits.length then .error .bsFull
  else .ok (s.putBs a (s.mem.getBs a ++ bits))

/-- An encoder's commit (R170): its output replaces BS[a], when it fits. -/
def storeBits (a : BufIdx) (out : BitSeq) (s : State) : Except Err State :=
  if s.cap.bcap < out.length then .error .bsFull else .ok (s.putBs a out)

/-- A decoder's append of one symbol to its output, with `room` bytes left (R171): CAPACITY(TX_FULL) when none is left,
else the symbol before whatever the rest of the decode gives. -/
def emitSym (room : Nat) (c : Byte) (rest : Nat → Except Err Text) : Except Err Text :=
  match room with
  | 0 => .error .txFull
  | r + 1 =>
    match rest r with
    | .ok out => .ok (c :: out)
    | .error e => .error e

/-- A decoder's commit (R171): its output replaces TX[t], or its error stands. -/
def storeText (t : BufIdx) (out : Except Err Text) (s : State) : Except Err State :=
  match out with
  | .ok x => .ok (s.putTx t x)
  | .error e => .error e

/-! ### The symbol table (R16, R32) -/

/-- `n = ST_N`. -/
def Table.size (t : Table) : Nat := t.n.toNat

/-- `S = ST_SUM`. -/
def Table.total (t : Table) : Nat := t.sum.toNat

/-- ST_SYM[0..ST_N-1]. -/
def Table.syms (t : Table) : List Byte := t.sym.toList.take t.size

/-- ST_W[0..ST_N-1], as naturals. -/
def Table.weights (t : Table) : List Nat := (t.w.toList.take t.size).map BitVec.toNat

/-- `ST_SYM[i]`. -/
def Table.symAt (t : Table) (i : Nat) : Byte := t.syms.getD i 0

/-- `ST_W[i]`. -/
def Table.weightAt (t : Table) (i : Nat) : Nat := t.weights.getD i 0

/-- `IndexOf(c)` (R16): the least index below ST_N that holds the symbol. -/
def Table.indexOf (t : Table) (c : Byte) : Option Nat := t.syms.findIdx? (fun x => x == c)

/-- The lookup of a whole message (R173): the indices in message order, none when a symbol is absent. -/
def Table.lookupAll (t : Table) : Text → Option (List Nat)
  | [] => some []
  | c :: cs =>
    match t.indexOf c, t.lookupAll cs with
    | some i, some is => some (i :: is)
    | _, _ => none

end Sys2Proof.Machine
end

