-- ==== Sys2Proof/Machine/Flags.lean ====
section
/-! DEFINITION. STATUS and VALID: the error kinds and detail codes (60_exceptions.md R300, R301), the words the host reads
(10_state.md R26, R43), and completion, the one way a command ends and the one place an error is taken (R313). -/

namespace Sys2Proof.Machine

/-- STATUS.ERR of an error: its kind's number (R300). -/
def errKind : Err → BitVec 4
  | .lengthMismatch | .sumTolerance | .tooMany | .noTable | .noEom | .noState => 1
  | .symbolAbsent | .noCode => 2
  | .formatLength | .codeRange | .candidates | .notAtRoot | .distance | .leafBit => 3
  | .iInterval => 4
  | .badOpcode | .badBuffer | .badRegister | .readOnly => 5
  | .bsFull | .txFull => 6
  | .index | .empty | .stageIndex => 7

/-- STATUS.DETAIL of an error (R301). -/
def errDetail : Err → BitVec 8
  | .lengthMismatch => 0x01
  | .sumTolerance => 0x02
  | .tooMany => 0x03
  | .noTable => 0x04
  | .noEom => 0x05
  | .noState => 0x06
  | .symbolAbsent => 0x10
  | .noCode => 0x11
  | .formatLength => 0x20
  | .codeRange => 0x21
  | .candidates => 0x22
  | .notAtRoot => 0x23
  | .distance => 0x24
  | .leafBit => 0x25
  | .iInterval => 0x30
  | .badOpcode => 0x40
  | .badBuffer => 0x41
  | .badRegister => 0x42
  | .readOnly => 0x43
  | .bsFull => 0x50
  | .txFull => 0x51
  | .index => 0x60
  | .empty => 0x61
  | .stageIndex => 0x62

/-- ERR for a completion: 0 is OK (R300). -/
def kindOf : Option Err → BitVec 4
  | none => 0
  | some e => errKind e

/-- DETAIL for a completion: 0x00 exactly when ERR = OK (R301). -/
def detailOf : Option Err → BitVec 8
  | none => 0
  | some e => errDetail e

/-- One flag as a bit. -/
def flagBit (b : Bool) : BitVec 1 := BitVec.ofBool b

/-- The 64-bit STATUS word (R26): LASTOP 31:24, ANYERR 18, OVR 17, BUSY 16, DETAIL 15:8, ERR 3:0, all else 0. -/
def statusWord (st : Status) : Word64 :=
  ((0 : BitVec 32) ++ st.lastOp ++ (0 : BitVec 5) ++ flagBit st.anyErr ++ flagBit st.ovr ++ flagBit st.busy
    ++ st.detail ++ (0 : BitVec 4) ++ st.err).setWidth 64

/-- The VALID register as read (R43): bits 0 and 1 are 1, bits 6:2 the stored bits, the rest 0. -/
def validWord (v : Valid) : Word64 :=
  ((0 : BitVec 57) ++ flagBit v.lzw ++ flagBit v.lz77 ++ flagBit v.arith ++ flagBit v.sf ++ flagBit v.huf
    ++ (3 : BitVec 2)).setWidth 64

/-- Completion (R313): ERR and DETAIL of the outcome, LASTOP from L_CMD, ANYERR sticky, CMDCOUNT + 1 modulo 2^32,
BUSY <- 0; OVR is not changed. -/
def complete (r : Option Err) (s : State) : State :=
  { s with
    status := { s.status with
      err := kindOf r
      detail := detailOf r
      busy := false
      anyErr := s.status.anyErr || r.isSome
      lastOp := s.lCmd.extractLsb' 0 8 }
    cmdCount := s.cmdCount + 1 }

/-- How a command ends (R15, R303, R313): with its effects and an OK completion, or, when it raised an error, with the
state it began in and that error's completion. -/
def finish (s : State) (r : Except Err State) : Host.Outcome State Fault Refusal :=
  match r with
  | .ok s' => .next (complete none s')
  | .error e => .next (complete (some e) s)

end Sys2Proof.Machine
end

