-- ==== Sys2Proof/Machine/Operands.lean ====
section
/-! DEFINITION. Operands: the scalar operands in the latched ARGs (30_encoding.md R85) and the tests that come before a
command's own (R83, 44_fixed_block.md R172 to R174), in the order of 60_exceptions.md R310. -/

namespace Sys2Proof.Machine

/-- ARG0[63:0] as an index or count: compared as the full 64-bit value (R85). -/
def arg0Nat (s : State) : Nat := s.lArg0.toNat

/-- ARG1[63:0] as a count (R85). -/
def arg1Nat (s : State) : Nat := s.lArg1.toNat

/-- ARG0[0:0]. -/
def arg0Bit (s : State) : Bool := s.lArg0.getLsbD 0

/-- ARG1[0:0]. -/
def arg1Bit (s : State) : Bool := s.lArg1.getLsbD 0

/-- ARG0[7:0]. -/
def arg0Byte (s : State) : Byte := s.lArg0.extractLsb' 0 8

/-- ARG1[7:0]. -/
def arg1Byte (s : State) : Byte := s.lArg1.extractLsb' 0 8

/-- ARG2[31:0], a weight. -/
def arg2Weight (s : State) : Word32 := s.lArg2.extractLsb' 0 32

/-- The low `w` bits of ARG0 as a natural, the operand of BS_APPU<w>. -/
def arg0Low (w : Nat) (s : State) : Nat := (s.lArg0.extractLsb' 0 w).toNat

/-- The check of a bit-stream buffer field (R83). -/
def withBs (s : State) (a : BufIdx) (k : Except Err State) : Except Err State :=
  if a.toNat < s.cap.nbs then k else .error .badBuffer

/-- The check of a text buffer field (R83). -/
def withTx (s : State) (t : BufIdx) (k : Except Err State) : Except Err State :=
  if t.toNat < s.cap.ntb then k else .error .badBuffer

/-- The table test (R172). -/
def withTable (s : State) (k : Except Err State) : Except Err State :=
  if s.table.valid then k else .error .noTable

/-- The sentinel test: EOM in the alphabet (R245, R246, R290, R291). -/
def withEom (s : State) (k : Except Err State) : Except Err State :=
  if (s.table.indexOf s.eom).isSome then k else .error .noEom

/-- The derived-state test (R174): `v` is the codec's VALID bit. -/
def withState (v : Bool) (k : Except Err State) : Except Err State :=
  if v then k else .error .noState

/-- The lookup of a message before any output (R173). -/
def withLookup (s : State) (msg : Text) (k : List Nat → Except Err State) : Except Err State :=
  match s.table.lookupAll msg with
  | some idx => k idx
  | none => .error .symbolAbsent

end Sys2Proof.Machine
end

