-- ==== Sys2Proof/Machine/Arithmetic.lean ====
section
/-! DEFINITION. The range-coder engine and the ARITH codec (47_arithmetic.md R235 to R247). The bounds are naturals below
2^53; the products of R238 are exact. -/

namespace Sys2Proof.Machine

/-- ArBuild's running sums (R235): AR_CUM[0..n] from a start value. -/
def arCumFrom (acc : Nat) : List Nat → List Nat
  | [] => [acc]
  | w :: ws => acc :: arCumFrom (acc + w) ws

/-- ArBuild (R235): the arithmetic state of a table. Entries beyond AR_N are 0 (DESIGN CHOICE, note 5; unobservable). -/
def arBuild (t : Table) : ArState :=
  { n := BitVec.ofNat 9 t.weights.length
    cum := fillVec 257 0 ((arCumFrom 0 t.weights).map (BitVec.ofNat 32)) }

/-- AR_CUM[k]. -/
def ArState.cumAt (st : ArState) (k : Nat) : Nat := (st.cum.toList.getD k 0).toNat

/-- M = 2^53 - 1 (R237). -/
def arMask : Nat := 2 ^ Config.precision - 1

/-- H = 2^52, bit P-1 (R237). -/
def arHalf : Nat := 2 ^ (Config.precision - 1)

/-- The interval `[low, high]` of R236. -/
structure Interval where
  low  : Nat
  high : Nat
  deriving DecidableEq, Repr

/-- The initial interval `[0, M]` (R237). -/
def arStart : Interval := { low := 0, high := arMask }

/-- Narrowing by the sub-interval `[lo, hi)` of `[0, S)` (R238). The test `low > high` is made on the exact integers:
`low + dLo > low + dHi - 1` exactly when `dHi <= dLo` (note 8). -/
def arNarrow (S lo hi : Nat) (iv : Interval) : Except Err Interval :=
  let range := iv.high - iv.low + 1
  let dLo := range * lo / S
  let dHi := range * hi / S
  if dHi ≤ dLo then .error .iInterval
  else .ok { low := iv.low + dLo, high := iv.low + dHi - 1 }

/-- Bit P-1 of a bound. -/
def topBit (x : Nat) : Bool := x.testBit (Config.precision - 1)

/-- Bit P-2 of a bound. -/
def secondBit (x : Nat) : Bool := x.testBit (Config.precision - 2)

/-- `((x << 1) & M) | b`: a P-bit shift that brings `b` into bit 0 (R239, R244). -/
def shiftIn (x : Nat) (b : Bool) : Nat := ((x <<< 1) &&& arMask) ||| b.toNat

/-- The E1/E2 shift of both bounds (R239). -/
def Interval.shift (iv : Interval) : Interval :=
  { low := shiftIn iv.low false, high := shiftIn iv.high true }

/-- The E3 shift of both bounds: the shift, then bit P-1 inverted (R239). -/
def Interval.shiftUnder (iv : Interval) : Interval :=
  { low := shiftIn iv.low false ^^^ arHalf, high := shiftIn iv.high true ^^^ arHalf }

/-- What R239's loop does next. -/
inductive Renorm where
  /-- E1 (bit 0) or E2 (bit 1): the top bits agree. -/
  | top (b : Bool)
  /-- E3, underflow. -/
  | under
  /-- exit the loop -/
  | done
  deriving DecidableEq, Repr

/-- The case of R239's loop: E1/E2 first, then E3 (conflict C5). -/
def renormCase (iv : Interval) : Renorm :=
  if topBit iv.low = topBit iv.high then .top (topBit iv.low)
  else if topBit iv.low = false ∧ secondBit iv.low = true ∧ topBit iv.high = true ∧ secondBit iv.high = false then .under
  else .done

/-- "emit b; emit (1 - b) pending times" (R239, R241). -/
def emitWithPending (b : Bool) (pending : Nat) : BitSeq := b :: List.replicate pending (!b)

/-- The encoder's renormalization (R239): the bits emitted, the interval and the pending count. Every turn doubles
`high - low + 1`, which is at most 2^53, so 53 turns reach the loop's own exit (note 12). -/
def encRenorm : Nat → Interval → Nat → BitSeq × Interval × Nat
  | 0, iv, p => ([], iv, p)
  | f + 1, iv, p =>
    match renormCase iv with
    | .top b =>
      let r := encRenorm f iv.shift 0
      (emitWithPending b p ++ r.1, r.2)
    | .under => encRenorm f iv.shiftUnder (p + 1)
    | .done => ([], iv, p)

/-- The encode loop of R245 over the message's indices: the bits emitted, the final interval and pending count. -/
def encSymbols (st : ArState) (S : Nat) : List Nat → Interval → Nat → Except Err (BitSeq × Interval × Nat)
  | [], iv, p => .ok ([], iv, p)
  | k :: ks, iv, p =>
    match arNarrow S (st.cumAt k) (st.cumAt (k + 1)) iv with
    | .error e => .error e
    | .ok iv' =>
      let r := encRenorm Config.precision iv' p
      match encSymbols st S ks r.2.1 r.2.2 with
      | .error e => .error e
      | .ok q => .ok (r.1 ++ q.1, q.2)

/-- The flush of R241: `low`'s top bit with the pending complements, then its P-1 low-order bits. -/
def flushBits (iv : Interval) (p : Nat) : BitSeq :=
  emitWithPending (topBit iv.low) p ++ uBits iv.low (Config.precision - 1)

/-- The trim of R242: every trailing 0 is removed. -/
def trimZeros (out : BitSeq) : BitSeq := (out.reverse.dropWhile (fun b => !b)).reverse

/-- The arithmetic message of R240: the text up to its first EOM, then one EOM. -/
def arMessage (eom : Byte) (text : Text) : Text := text.takeWhile (fun c => c != eom) ++ [eom]

/-- The encode function of R245. -/
def arEncode (st : ArState) (S : Nat) (idx : List Nat) : Except Err BitSeq :=
  match encSymbols st S idx arStart 0 with
  | .error e => .error e
  | .ok r => .ok (trimZeros (r.1 ++ flushBits r.2.1 r.2.2))

/-- ENC.ARITH (R245). -/
def ruleEncArith (a b : BufIdx) (s : State) : Except Err State :=
  withBs s a <| withTx s b <| withTable s <| withEom s <|
    withLookup s (arMessage s.eom (s.mem.getTx b)) fun idx =>
      match arEncode (arBuild s.table) s.table.total idx with
      | .error e => .error e
      | .ok out => storeBits a out { s with ar := arBuild s.table, valid := { s.valid with arith := true } }

/-- The decoder's bit supply and register: `v` and the bits not yet read (R236, R244). -/
structure BitFeed where
  v    : Nat
  rest : BitSeq
  deriving DecidableEq, Repr

/-- `NextBit()` of R244: the next bit, 0 past the end (conflict C4). -/
def BitFeed.nextBit (fd : BitFeed) : Bool := fd.rest.headD false

/-- `v <- ((v << 1) & M) | NextBit()` (R244). -/
def BitFeed.shift (fd : BitFeed) : BitFeed := { v := shiftIn fd.v fd.nextBit, rest := fd.rest.tail }

/-- The E3 shift of `v`: bit P-1 inverted after the shift (R244). -/
def BitFeed.shiftUnder (fd : BitFeed) : BitFeed :=
  { v := shiftIn fd.v fd.nextBit ^^^ arHalf, rest := fd.rest.tail }

/-- `count` bits shifted into `v` (R244's initial fill). -/
def BitFeed.fill : Nat → BitFeed → BitFeed
  | 0, fd => fd
  | k + 1, fd => BitFeed.fill k fd.shift

/-- The decoder's renormalization (R244): R239's loop with the bit supply in place of the emits (note 12). -/
def decRenorm : Nat → Interval → BitFeed → Interval × BitFeed
  | 0, iv, fd => (iv, fd)
  | f + 1, iv, fd =>
    match renormCase iv with
    | .top _ => decRenorm f iv.shift fd.shift
    | .under => decRenorm f iv.shiftUnder fd.shiftUnder
    | .done => (iv, fd)

/-- The scaled position of `v` (R243). -/
def arScaled (S : Nat) (iv : Interval) (v : Nat) : Nat :=
  ((v - iv.low + 1) * S - 1) / (iv.high - iv.low + 1)

/-- The symbol whose cumulative interval holds a scaled position (R243). -/
def arFind (st : ArState) (scaled : Nat) : Option Nat :=
  (List.range st.n.toNat).find? (fun k => decide (st.cumAt k ≤ scaled) && decide (scaled < st.cumAt (k + 1)))

/-- The decode loop of R246, with `room` bytes left: it ends at EOM, or at CAPACITY(TX_FULL). R243 shows that a symbol is
always found; for an inconsistent state, which no run reaches, the answer is I_INTERVAL (note 9). -/
def arDecode (st : ArState) (t : Table) (eom : Byte) : Nat → Interval → BitFeed → Except Err Text
  | room, iv, fd =>
    match arFind st (arScaled t.total iv fd.v) with
    | none => .error .iInterval
    | some k =>
      match room with
      | 0 => .error .txFull
      | r + 1 =>
        if t.symAt k = eom then .ok [t.symAt k]
        else
          match arNarrow t.total (st.cumAt k) (st.cumAt (k + 1)) iv with
          | .error e => .error e
          | .ok iv' =>
            let q := decRenorm Config.precision iv' fd
            match arDecode st t eom r q.1 q.2 with
            | .error e => .error e
            | .ok out => .ok (t.symAt k :: out)

/-- DEC.ARITH (R246). -/
def ruleDecArith (a b : BufIdx) (s : State) : Except Err State :=
  withTx s a <| withBs s b <| withTable s <| withEom s <| withState s.valid.arith <|
    storeText a
      (arDecode s.ar s.table s.eom s.cap.tcap arStart
        (BitFeed.fill Config.precision { v := 0, rest := s.mem.getBs b })) s

/-- PREP.ARITH (R247): it does not test EOM. -/
def rulePrepArith (s : State) : Except Err State :=
  withTable s (.ok { s with ar := arBuild s.table, valid := { s.valid with arith := true } })

/-- ENC.ARITH. -/
def execEncArith (a b : BufIdx) (s : State) : Host.Outcome State Fault Refusal := finish s (ruleEncArith a b s)

/-- DEC.ARITH. -/
def execDecArith (a b : BufIdx) (s : State) : Host.Outcome State Fault Refusal := finish s (ruleDecArith a b s)

/-- PREP.ARITH. -/
def execPrepArith (s : State) : Host.Outcome State Fault Refusal := finish s (rulePrepArith s)

end Sys2Proof.Machine
end

