-- ==== Sys2Proof/Machine/BitStream.lean ====
section
/-! DEFINITION. The bit-stream buffer commands (42_bitstream.md R130 to R142). -/

namespace Sys2Proof.Machine

/-- BS_CLEAR (R130). -/
def ruleBsClear (a : BufIdx) (s : State) : Except Err State :=
  withBs s a (.ok (s.putBs a []))

/-- BS_APPB (R131). -/
def ruleBsAppb (a : BufIdx) (s : State) : Except Err State :=
  withBs s a (appendBits a [arg0Bit s] s)

/-- BS_APPU8, 16, 32, 64 (R132 to R135): append the low `w` bits of ARG0, big-endian. -/
def ruleBsAppu (w : Nat) (a : BufIdx) (s : State) : Except Err State :=
  withBs s a (appendBits a (uBits (arg0Low w s) w) s)

/-- BS_CAT (R136): the source is read as it stood at the command's start (R68). -/
def ruleBsCat (a b : BufIdx) (s : State) : Except Err State :=
  withBs s a (withBs s b (appendBits a (s.mem.getBs b) s))

/-- BS_APPT (R137). -/
def ruleBsAppt (a b : BufIdx) (s : State) : Except Err State :=
  withBs s a (withTx s b (appendBits a (textBits (s.mem.getTx b)) s))

/-- BS_POP (R138). -/
def ruleBsPop (a : BufIdx) (s : State) : Except Err State :=
  withBs s a <|
    if (s.mem.getBs a).length = 0 then .error .empty
    else .ok (s.putBs a (s.mem.getBs a).dropLast)

/-- BS_GET (R139). -/
def ruleBsGet (a : BufIdx) (s : State) : Except Err State :=
  withBs s a <|
    match (s.mem.getBs a)[arg0Nat s]? with
    | none => .error .index
    | some b => .ok { s with res0 := (flagBit b).setWidth 64 }

/-- BS_SET (R140). -/
def ruleBsSet (a : BufIdx) (s : State) : Except Err State :=
  withBs s a <|
    if (s.mem.getBs a).length ≤ arg0Nat s then .error .index
    else .ok (s.putBs a ((s.mem.getBs a).set (arg0Nat s) (arg1Bit s)))

/-- BS_LEN (R141). -/
def ruleBsLen (a : BufIdx) (s : State) : Except Err State :=
  withBs s a (.ok { s with res0 := BitVec.ofNat 64 (s.mem.getBs a).length })

/-- The '0'/'1' rendering of a bit stream (R142): byte 0x30 + bit. -/
def renderBits (bs : BitSeq) : Text := bs.map (fun b => if b then 0x31#8 else 0x30#8)

/-- BS_RENDER (R142). -/
def ruleBsRender (a b : BufIdx) (s : State) : Except Err State :=
  withTx s a <| withBs s b <|
    if s.cap.tcap < (renderBits (s.mem.getBs b)).length then .error .txFull
    else .ok (s.putTx a (renderBits (s.mem.getBs b)))

/-- BS_CLEAR. -/
def execBsClear (a : BufIdx) (s : State) : Host.Outcome State Fault Refusal := finish s (ruleBsClear a s)

/-- BS_APPB. -/
def execBsAppb (a : BufIdx) (s : State) : Host.Outcome State Fault Refusal := finish s (ruleBsAppb a s)

/-- BS_APPU8. -/
def execBsAppu8 (a : BufIdx) (s : State) : Host.Outcome State Fault Refusal := finish s (ruleBsAppu 8 a s)

/-- BS_APPU16. -/
def execBsAppu16 (a : BufIdx) (s : State) : Host.Outcome State Fault Refusal := finish s (ruleBsAppu 16 a s)

/-- BS_APPU32. -/
def execBsAppu32 (a : BufIdx) (s : State) : Host.Outcome State Fault Refusal := finish s (ruleBsAppu 32 a s)

/-- BS_APPU64. -/
def execBsAppu64 (a : BufIdx) (s : State) : Host.Outcome State Fault Refusal := finish s (ruleBsAppu 64 a s)

/-- BS_CAT. -/
def execBsCat (a b : BufIdx) (s : State) : Host.Outcome State Fault Refusal := finish s (ruleBsCat a b s)

/-- BS_APPT. -/
def execBsAppt (a b : BufIdx) (s : State) : Host.Outcome State Fault Refusal := finish s (ruleBsAppt a b s)

/-- BS_POP. -/
def execBsPop (a : BufIdx) (s : State) : Host.Outcome State Fault Refusal := finish s (ruleBsPop a s)

/-- BS_GET. -/
def execBsGet (a : BufIdx) (s : State) : Host.Outcome State Fault Refusal := finish s (ruleBsGet a s)

/-- BS_SET. -/
def execBsSet (a : BufIdx) (s : State) : Host.Outcome State Fault Refusal := finish s (ruleBsSet a s)

/-- BS_LEN. -/
def execBsLen (a : BufIdx) (s : State) : Host.Outcome State Fault Refusal := finish s (ruleBsLen a s)

/-- BS_RENDER. -/
def execBsRender (a b : BufIdx) (s : State) : Host.Outcome State Fault Refusal := finish s (ruleBsRender a b s)

end Sys2Proof.Machine
end

