-- ==== Sys2Proof/Machine/Registers.lean ====
section
/-! DEFINITION. The configuration register space (10_state.md R34, R40 to R44): the numbers, the values read, the registers a
host can write. -/

namespace Sys2Proof.Machine

/-- The configuration registers of R34. -/
inductive Reg where
  | id | eom | valid | lz77Window | lz77Lookahead | lzwBlocksize | lzwDictsize
  | stValid | stN | stSum | cmdCount
  | capNbs | capNtb | capBcap | capTcap | capNsym | capP
  deriving DecidableEq, Repr

/-- The register of a number; none for a reserved number (R34). -/
def regOfNumber (r : Word64) : Option Reg :=
  if r = 0x00 then some .id
  else if r = 0x01 then some .eom
  else if r = 0x02 then some .valid
  else if r = 0x03 then some .lz77Window
  else if r = 0x04 then some .lz77Lookahead
  else if r = 0x05 then some .lzwBlocksize
  else if r = 0x06 then some .lzwDictsize
  else if r = 0x08 then some .stValid
  else if r = 0x09 then some .stN
  else if r = 0x0A then some .stSum
  else if r = 0x0B then some .cmdCount
  else if r = 0x10 then some .capNbs
  else if r = 0x11 then some .capNtb
  else if r = 0x12 then some .capBcap
  else if r = 0x13 then some .capTcap
  else if r = 0x14 then some .capNsym
  else if r = 0x15 then some .capP
  else none

/-- The ID constant (R40): "IDE7" and command-set revision 1. -/
def idWord : Word64 := 0x4944453700000001

/-- The value of a register, zero-extended to 64 bits (R34). -/
def regValue (s : State) : Reg → Word64
  | .id => idWord
  | .eom => s.eom.setWidth 64
  | .valid => validWord s.valid
  | .lz77Window => s.lz77Window.setWidth 64
  | .lz77Lookahead => s.lz77Lookahead.setWidth 64
  | .lzwBlocksize => s.lzwBlocksize.setWidth 64
  | .lzwDictsize => s.lzwDictsize
  | .stValid => (flagBit s.table.valid).setWidth 64
  | .stN => s.table.n.setWidth 64
  | .stSum => s.table.sum.setWidth 64
  | .cmdCount => s.cmdCount.setWidth 64
  | .capNbs => BitVec.ofNat 64 s.cap.nbs
  | .capNtb => BitVec.ofNat 64 s.cap.ntb
  | .capBcap => BitVec.ofNat 64 s.cap.bcap
  | .capTcap => BitVec.ofNat 64 s.cap.tcap
  | .capNsym => BitVec.ofNat 64 Config.nsymMax
  | .capP => BitVec.ofNat 64 Config.precision

/-- A write of a register (R43, R44, R102): the bits kept, or READ_ONLY. A write of VALID reaches bits 5 and 6 only. -/
def regWrite (s : State) (v : Word64) : Reg → Except Err State
  | .eom => .ok { s with eom := v.extractLsb' 0 8 }
  | .valid => .ok { s with valid := { s.valid with lz77 := v.getLsbD 5, lzw := v.getLsbD 6 } }
  | .lz77Window => .ok { s with lz77Window := v.extractLsb' 0 32 }
  | .lz77Lookahead => .ok { s with lz77Lookahead := v.extractLsb' 0 32 }
  | .lzwBlocksize => .ok { s with lzwBlocksize := v.extractLsb' 0 6 }
  | .id | .lzwDictsize | .stValid | .stN | .stSum | .cmdCount => .error .readOnly
  | .capNbs | .capNtb | .capBcap | .capTcap | .capNsym | .capP => .error .readOnly

end Sys2Proof.Machine
end

