-- ==== Sys2Proof/Machine/Control.lean ====
section
/-! DEFINITION. The control and register-access commands (40_control.md R100 to R102). -/

namespace Sys2Proof.Machine

/-- NOP (R100): no effect. -/
def ruleNop (s : State) : Except Err State := .ok s

/-- REG_RD (R101). -/
def ruleRegRd (s : State) : Except Err State :=
  match regOfNumber s.lArg0 with
  | none => .error .badRegister
  | some r => .ok { s with res0 := regValue s r }

/-- REG_WR (R102). -/
def ruleRegWr (s : State) : Except Err State :=
  match regOfNumber s.lArg0 with
  | none => .error .badRegister
  | some r => regWrite s s.lArg1 r

/-- NOP. -/
def execNop (s : State) : Host.Outcome State Fault Refusal := finish s (ruleNop s)

/-- REG_RD. -/
def execRegRd (s : State) : Host.Outcome State Fault Refusal := finish s (ruleRegRd s)

/-- REG_WR. -/
def execRegWr (s : State) : Host.Outcome State Fault Refusal := finish s (ruleRegWr s)

end Sys2Proof.Machine
end

