-- ==== Sys2Proof/Machine/FixedBlock.lean ====
section
/-! DEFINITION. The FIXED and BLOCK codecs (44_fixed_block.md R170 to R181). -/

namespace Sys2Proof.Machine

/-- The output of a decoder of whole groups (R176, R180): each group's symbol in stream order, with `room` bytes left. -/
def decodeGroups (symOf : BitSeq → Except Err Byte) : List BitSeq → Nat → Except Err Text
  | [], _ => .ok []
  | g :: gs, room =>
    match symOf g with
    | .error e => .error e
    | .ok c => emitSym room c (decodeGroups symOf gs)

/-- ENC.FIXED (R175): no table, no lookup. -/
def ruleEncFixed (a b : BufIdx) (s : State) : Except Err State :=
  withBs s a <| withTx s b <| storeBits a (textBits (s.mem.getTx b)) s

/-- The byte of an 8-bit group (R176). -/
def fixedSym (g : BitSeq) : Except Err Byte := .ok (BitVec.ofNat 8 (uVal g))

/-- The decode function of R176. -/
def decodeFixed (tcap : Nat) (bits : BitSeq) : Except Err Text :=
  if bits.length % 8 ≠ 0 then .error .formatLength
  else decodeGroups fixedSym (bitGroups 8 (bits.length / 8) bits) tcap

/-- DEC.FIXED (R176). -/
def ruleDecFixed (a b : BufIdx) (s : State) : Except Err State :=
  withTx s a <| withBs s b <| storeText a (decodeFixed s.cap.tcap (s.mem.getBs b)) s

/-- AVG.FIXED (R177): 8/1. -/
def ruleAvgFixed (s : State) : Except Err State := .ok { s with res0 := 8, res1 := 1 }

/-- The block width W (R178). -/
def blockWidth (t : Table) : Nat := max 1 (clog2 t.size)

/-- The output of R179 for looked-up indices. -/
def blockBits (w : Nat) (idx : List Nat) : BitSeq := idx.flatMap (fun i => uBits i w)

/-- ENC.BLOCK (R179). -/
def ruleEncBlock (a b : BufIdx) (s : State) : Except Err State :=
  withBs s a <| withTx s b <| withTable s <| withLookup s (s.mem.getTx b) fun idx =>
    storeBits a (blockBits (blockWidth s.table) idx) s

/-- The symbol of a W-bit group (R180). -/
def blockSym (t : Table) (g : BitSeq) : Except Err Byte :=
  if t.size ≤ uVal g then .error .codeRange else .ok (t.symAt (uVal g))

/-- The decode function of R180. A trailing partial group is rejected (conflict C1). -/
def decodeBlock (t : Table) (tcap : Nat) (bits : BitSeq) : Except Err Text :=
  if bits.length % blockWidth t ≠ 0 then .error .formatLength
  else decodeGroups (blockSym t) (bitGroups (blockWidth t) (bits.length / blockWidth t) bits) tcap

/-- DEC.BLOCK (R180). -/
def ruleDecBlock (a b : BufIdx) (s : State) : Except Err State :=
  withTx s a <| withBs s b <| withTable s <|
    storeText a (decodeBlock s.table s.cap.tcap (s.mem.getBs b)) s

/-- AVG.BLOCK (R181): W/1. -/
def ruleAvgBlock (s : State) : Except Err State :=
  withTable s (.ok { s with res0 := BitVec.ofNat 64 (blockWidth s.table), res1 := 1 })

/-- ENC.FIXED. -/
def execEncFixed (a b : BufIdx) (s : State) : Host.Outcome State Fault Refusal := finish s (ruleEncFixed a b s)

/-- DEC.FIXED. -/
def execDecFixed (a b : BufIdx) (s : State) : Host.Outcome State Fault Refusal := finish s (ruleDecFixed a b s)

/-- AVG.FIXED. -/
def execAvgFixed (s : State) : Host.Outcome State Fault Refusal := finish s (ruleAvgFixed s)

/-- ENC.BLOCK. -/
def execEncBlock (a b : BufIdx) (s : State) : Host.Outcome State Fault Refusal := finish s (ruleEncBlock a b s)

/-- DEC.BLOCK. -/
def execDecBlock (a b : BufIdx) (s : State) : Host.Outcome State Fault Refusal := finish s (ruleDecBlock a b s)

/-- AVG.BLOCK. -/
def execAvgBlock (s : State) : Host.Outcome State Fault Refusal := finish s (ruleAvgBlock s)

end Sys2Proof.Machine
end

