-- ==== Sys2Proof/Machine/Huffman.lean ====
section
/-! DEFINITION. The Huffman tree builder and the HUF codec (45_huffman.md R195 to R203). -/

namespace Sys2Proof.Machine

/-- A candidate merge of R195: the summed weight, the two elements taken (child 0 and child 1, R197), and the queues left. -/
structure HufMerge where
  sum    : Nat
  c0     : Nat
  c1     : Nat
  leaves : List Nat
  nodes  : List (Nat × Nat)
  deriving DecidableEq, Repr

/-- The candidate LL: the two lightest leaves. -/
def hufLL (w : Nat → Nat) : List Nat → List (Nat × Nat) → Option HufMerge
  | x :: y :: ls, q => some { sum := w x + w y, c0 := x, c1 := y, leaves := ls, nodes := q }
  | _, _ => none

/-- The candidate LN: the lightest leaf and the oldest node. -/
def hufLN (w : Nat → Nat) : List Nat → List (Nat × Nat) → Option HufMerge
  | x :: ls, (k, wk) :: q => some { sum := w x + wk, c0 := x, c1 := k, leaves := ls, nodes := q }
  | _, _ => none

/-- The candidate NN: the two oldest nodes. -/
def hufNN : List Nat → List (Nat × Nat) → Option HufMerge
  | ls, (k, wk) :: (k', wk') :: q => some { sum := wk + wk', c0 := k, c1 := k', leaves := ls, nodes := q }
  | _, _ => none

/-- Of two candidates the one with the least sum, ties to the earlier (R196). -/
def hufBetter : Option HufMerge → Option HufMerge → Option HufMerge
  | some x, some y => if y.sum < x.sum then some y else some x
  | some x, none => some x
  | none, y => y

/-- The merge R195 picks: the first of LL, LN, NN with the least sum. -/
def hufPick (w : Nat → Nat) (ls : List Nat) (q : List (Nat × Nat)) : Option HufMerge :=
  hufBetter (hufBetter (hufLL w ls q) (hufLN w ls q)) (hufNN ls q)

/-- The children of the internal nodes R195 creates, in creation order: `m` merges, the next node's id being `k`. -/
def hufMerges (w : Nat → Nat) : Nat → Nat → List Nat → List (Nat × Nat) → List (Nat × Nat)
  | 0, _, _, _ => []
  | m + 1, k, ls, q =>
    match hufPick w ls q with
    | none => []
    | some c => (c.c0, c.c1) :: hufMerges w m (k + 1) c.leaves (c.nodes ++ [(k, c.sum)])

/-- The children of R195's tree for a list of weights; entry `j` belongs to node `n + j`. -/
def hufChildren (ws : List Nat) : List (Nat × Nat) :=
  hufMerges (fun i => ws.getD i 0) (ws.length - 1) ws.length (stableSortDesc ws).reverse []

/-- The leaves below a node with their paths from it (R198): bit 0 goes to child 0, bit 1 to child 1. -/
def hufPaths (n : Nat) (kids : List (Nat × Nat)) : Nat → Nat → BitSeq → List (Nat × BitSeq)
  | 0, _, _ => []
  | f + 1, x, path =>
    if x < n then [(x, path)]
    else
      hufPaths n kids f (kids.getD (x - n) (0, 0)).1 (path ++ [false]) ++
      hufPaths n kids f (kids.getD (x - n) (0, 0)).2 (path ++ [true])

/-- HUF_ROOT (R195). -/
def hufRoot (n : Nat) : Nat := if n = 1 then 0 else 2 * n - 2

/-- The codes of R198, by leaf: for one symbol the single bit 0, else the path from the root. -/
def hufCodes (ws : List Nat) : List BitSeq :=
  if ws.length = 1 then [[false]]
  else
    (List.range ws.length).map fun i =>
      ((hufPaths ws.length (hufChildren ws) ws.length (hufRoot ws.length) []).lookup i).getD []

/-- HufBuild (R195, R198): the Huffman state of a table. What the rule gives no value (entries of no node or leaf) is 0
(DESIGN CHOICE, note 5; unobservable). -/
def hufBuild (t : Table) : HufState :=
  let n := t.weights.length
  let kids := hufChildren t.weights
  let codes := hufCodes t.weights
  { n := BitVec.ofNat 9 n
    c0 := fillVec 512 0 (List.replicate n 0 ++ kids.map (fun c => BitVec.ofNat 9 c.1))
    c1 := fillVec 512 0 (List.replicate n 0 ++ kids.map (fun c => BitVec.ofNat 9 c.2))
    root := BitVec.ofNat 9 (hufRoot n)
    len := fillVec 256 0 (codes.map (fun c => BitVec.ofNat 8 c.length))
    code := fillVec 256 [] codes }

/-- HUF_CODE[i]. -/
def HufState.codeAt (h : HufState) (i : Nat) : BitSeq := h.code.toList.getD i []

/-- HUF_LEN[i]. -/
def HufState.lenAt (h : HufState) (i : Nat) : Nat := (h.len.toList.getD i 0).toNat

/-- The child of node `x` on bit `b`: HUF_C0[x] or HUF_C1[x]. -/
def HufState.child (h : HufState) (x : BitVec 9) (b : Bool) : BitVec 9 :=
  if b then h.c1[x.toNat]'(x.isLt) else h.c0[x.toNat]'(x.isLt)

/-- The output of ENC.HUF (R200). -/
def hufEncode (h : HufState) (idx : List Nat) : BitSeq := idx.flatMap h.codeAt

/-- ENC.HUF (R200): build the tree and encode. -/
def ruleEncHuf (a b : BufIdx) (s : State) : Except Err State :=
  withBs s a <| withTx s b <| withTable s <| withLookup s (s.mem.getTx b) fun idx =>
    storeBits a (hufEncode (hufBuild s.table) idx)
      { s with huf := hufBuild s.table, valid := { s.valid with huf := true } }

/-- The decode of R201 when HUF_N = 1: every 0 is the one symbol, a 1 is LEAF_BIT. -/
def hufDecodeLeaf (sym : Byte) : BitSeq → Nat → Except Err Text
  | [], _ => .ok []
  | b :: bs, room => if b then .error .leafBit else emitSym room sym (hufDecodeLeaf sym bs)

/-- The tree walk of R201 when HUF_N is not 1, from node `cur`. -/
def hufWalk (h : HufState) (t : Table) : BitSeq → BitVec 9 → Nat → Except Err Text
  | [], cur, _ => if cur = h.root then .ok [] else .error .notAtRoot
  | b :: bs, cur, room =>
    if h.child cur b < h.n then emitSym room (t.symAt (h.child cur b).toNat) (hufWalk h t bs h.root)
    else hufWalk h t bs (h.child cur b) room

/-- The decode function of R201. -/
def hufDecode (h : HufState) (t : Table) (tcap : Nat) (bits : BitSeq) : Except Err Text :=
  if h.n = 1 then hufDecodeLeaf (t.symAt 0) bits tcap else hufWalk h t bits h.root tcap

/-- DEC.HUF (R201). -/
def ruleDecHuf (a b : BufIdx) (s : State) : Except Err State :=
  withTx s a <| withBs s b <| withTable s <| withState s.valid.huf <|
    storeText a (hufDecode s.huf s.table s.cap.tcap (s.mem.getBs b)) s

/-- The weighted sum of code lengths of R202. -/
def hufWeightedLength (h : HufState) (t : Table) : Nat :=
  ((List.range h.n.toNat).map (fun i => t.weightAt i * h.lenAt i)).sum

/-- AVG.HUF (R202). -/
def ruleAvgHuf (s : State) : Except Err State :=
  withTable s <| withState s.valid.huf <|
    .ok { s with res0 := BitVec.ofNat 64 (hufWeightedLength s.huf s.table), res1 := s.table.sum.setWidth 64 }

/-- PREP.HUF (R203). -/
def rulePrepHuf (s : State) : Except Err State :=
  withTable s (.ok { s with huf := hufBuild s.table, valid := { s.valid with huf := true } })

/-- ENC.HUF. -/
def execEncHuf (a b : BufIdx) (s : State) : Host.Outcome State Fault Refusal := finish s (ruleEncHuf a b s)

/-- DEC.HUF. -/
def execDecHuf (a b : BufIdx) (s : State) : Host.Outcome State Fault Refusal := finish s (ruleDecHuf a b s)

/-- AVG.HUF. -/
def execAvgHuf (s : State) : Host.Outcome State Fault Refusal := finish s (ruleAvgHuf s)

/-- PREP.HUF. -/
def execPrepHuf (s : State) : Host.Outcome State Fault Refusal := finish s (rulePrepHuf s)

end Sys2Proof.Machine
end

