-- ==== Sys2Proof/Machine/Lz77.lean ====
section
/-! DEFINITION. The LZ77 windowed matcher and codec (48_lz77.md R265 to R271). -/

namespace Sys2Proof.Machine

/-- The lookahead derived from a text length (R265). -/
def lzLookahead (n : Nat) : Nat := if n = 0 then 0 else min n (max (10 + floorLn n) 15)

/-- The window derived from a text length (R265). -/
def lzWindow (n : Nat) : Nat := if n = 0 then 0 else iCbrt n

/-- The three field widths (R266). -/
structure LzWidths where
  symbol   : Nat
  distance : Nat
  length   : Nat
  deriving DecidableEq, Repr

/-- The widths for a table, a window and a lookahead (R266). -/
def lzWidths (t : Table) (win la : Nat) : LzWidths :=
  { symbol := clog2 t.size, distance := clog2 win, length := clog2 la }

/-- A token (R267): a literal's table index, or a match's distance and length. -/
inductive LzToken where
  | literal (i : Nat)
  | copy (d l : Nat)
  deriving DecidableEq, Repr

/-- The layout of a token (R267): the fields hold the distance and the length minus one (conflict C8). -/
def lzTokenBits (w : LzWidths) : LzToken → BitSeq
  | .literal i => false :: uBits i w.symbol
  | .copy d l => true :: (uBits (d - 1) w.distance ++ uBits (l - 1) w.length)

/-- The length of the match between the text from the source position on and the text from the current position on, at
most `la` (R268). The source may run into the current position and beyond it. -/
def matchLen : Nat → Text → Text → Nat
  | la + 1, x :: xs, y :: ys => if x = y then matchLen la xs ys + 1 else 0
  | _, _, _ => 0

/-- The best match at `pos` (R268), as (distance, length): the longest, ties to the smallest distance; (0, 0) if none. -/
def bestMatch (text : Text) (win la pos : Nat) : Nat × Nat :=
  (List.range (min win pos)).foldl
    (fun best j =>
      let l := matchLen la (text.drop (pos - (j + 1))) (text.drop pos)
      if best.2 < l then (j + 1, l) else best)
    (0, 0)

/-- The tokens of a text from `pos` on (R268). `idx` are the looked-up indices of the whole text. Every turn advances, so
as many turns as the text is long reach its end. -/
def lzTokens (text : Text) (idx : List Nat) (win la : Nat) : Nat → Nat → List LzToken
  | 0, _ => []
  | f + 1, pos =>
    if text.length ≤ pos then []
    else
      let m := bestMatch text win la pos
      if 3 ≤ m.2 then .copy m.1 m.2 :: lzTokens text idx win la f (pos + m.2)
      else .literal (idx.getD pos 0) :: lzTokens text idx win la f (pos + 1)

/-- The output of ENC.LZ77 (R270). -/
def lzEncode (t : Table) (text : Text) (idx : List Nat) : BitSeq :=
  let win := lzWindow text.length
  let la := lzLookahead text.length
  (lzTokens text idx win la text.length 0).flatMap (lzTokenBits (lzWidths t win la))

/-- ENC.LZ77 (R270). -/
def ruleEncLz77 (a b : BufIdx) (s : State) : Except Err State :=
  withBs s a <| withTx s b <| withTable s <| withLookup s (s.mem.getTx b) fun idx =>
    storeBits a (lzEncode s.table (s.mem.getTx b) idx)
      { s with lz77Window := BitVec.ofNat 32 (lzWindow (s.mem.getTx b).length)
               lz77Lookahead := BitVec.ofNat 32 (lzLookahead (s.mem.getTx b).length)
               valid := { s.valid with lz77 := true } }

/-- A copy of `l` symbols, one at a time, from `d` positions back in the growing output (R271). The output is held newest
first, with `room` bytes left; the answer is the output and the room after it. -/
def lzCopy (d : Nat) : Nat → Text → Nat → Except Err (Text × Nat)
  | 0, rev, room => .ok (rev, room)
  | _ + 1, _, 0 => .error .txFull
  | l + 1, rev, room + 1 => lzCopy d l (rev.getD (d - 1) 0 :: rev) room

/-- The decode loop of R271 on the bits still to be read. The output is held newest first. Every turn reads the flag bit,
so as many turns as there are bits reach the end. -/
def lzDecodeLoop (t : Table) (w : LzWidths) : Nat → BitSeq → Text → Nat → Except Err Text
  | 0, _, rev, _ => .ok rev.reverse
  | _ + 1, [], rev, _ => .ok rev.reverse
  | f + 1, true :: bs, rev, room =>
    if bs.length < w.distance + w.length then .error .formatLength
    else
      let d := uVal (bs.take w.distance) + 1
      let l := uVal ((bs.drop w.distance).take w.length) + 1
      if rev.length < d then .error .distance
      else
        match lzCopy d l rev room with
        | .error e => .error e
        | .ok r => lzDecodeLoop t w f (bs.drop (w.distance + w.length)) r.1 r.2
  | f + 1, false :: bs, rev, room =>
    if bs.length < w.symbol then .error .formatLength
    else if t.size ≤ uVal (bs.take w.symbol) then .error .codeRange
    else
      match room with
      | 0 => .error .txFull
      | r + 1 => lzDecodeLoop t w f (bs.drop w.symbol) (t.symAt (uVal (bs.take w.symbol)) :: rev) r

/-- The decode function of R271 with a window and a lookahead in force. -/
def lzDecode (t : Table) (win la tcap : Nat) (bits : BitSeq) : Except Err Text :=
  lzDecodeLoop t (lzWidths t win la) bits.length bits [] tcap

/-- DEC.LZ77 (R271). -/
def ruleDecLz77 (a b : BufIdx) (s : State) : Except Err State :=
  withTx s a <| withBs s b <| withTable s <| withState s.valid.lz77 <|
    storeText a (lzDecode s.table s.lz77Window.toNat s.lz77Lookahead.toNat s.cap.tcap (s.mem.getBs b)) s

/-- ENC.LZ77. -/
def execEncLz77 (a b : BufIdx) (s : State) : Host.Outcome State Fault Refusal := finish s (ruleEncLz77 a b s)

/-- DEC.LZ77. -/
def execDecLz77 (a b : BufIdx) (s : State) : Host.Outcome State Fault Refusal := finish s (ruleDecLz77 a b s)

end Sys2Proof.Machine
end

