-- ==== Sys2Proof/Machine/Lzw.lean ====
section
/-! DEFINITION. The LZW trie encoder, table decoder and codec (49_lzw.md R285 to R291). -/

namespace Sys2Proof.Machine

/-- The LZW message (R286): the text before its first EOM. -/
def lzwMessage (eom : Byte) (text : Text) : Text := text.takeWhile (fun c => c != eom)

/-- The encoder's trie entries (R285): `CHILD(parent, byte) = code`, newest first. -/
abbrev LzwTrie := List ((Nat × Byte) × Nat)

/-- `CHILD(parent, byte)` (R285). -/
def lzwChild (trie : LzwTrie) (parent : Nat) (c : Byte) : Option Nat :=
  (trie.find? (fun e => e.1.1 == parent && e.1.2 == c)).map (·.2)

/-- The loop of R287 after the message's first byte: the codes still to emit and the final size. -/
def lzwLoop (t : Table) : Text → Nat → LzwTrie → Nat → List Nat × Nat
  | [], cur, _, size => ([cur], size)
  | c :: cs, cur, trie, size =>
    match lzwChild trie cur c with
    | some k => lzwLoop t cs k trie size
    | none =>
      let r := lzwLoop t cs ((t.indexOf c).getD 0) (((cur, c), size) :: trie) (size + 1)
      (cur :: r.1, r.2)

/-- The codes and the final size of R287. -/
def lzwCodes (t : Table) (msg : Text) : List Nat × Nat :=
  match msg with
  | [] => ([], t.size)
  | c :: cs => lzwLoop t cs ((t.indexOf c).getD 0) [] t.size

/-- LzwEncode (R287, R288): the output bits, blockSize and the final size. -/
def lzwEncode (t : Table) (msg : Text) : BitSeq × Nat × Nat :=
  let r := lzwCodes t msg
  (r.1.flatMap (fun k => uBits k (clog2 r.2)), clog2 r.2, r.2)

/-- ENC.LZW (R290). -/
def ruleEncLzw (a b : BufIdx) (s : State) : Except Err State :=
  withBs s a <| withTx s b <| withTable s <| withEom s <|
    withLookup s (lzwMessage s.eom (s.mem.getTx b)) fun _ =>
      let r := lzwEncode s.table (lzwMessage s.eom (s.mem.getTx b))
      storeBits a r.1
        { s with lzwBlocksize := BitVec.ofNat 6 r.2.1
                 lzwDictsize := BitVec.ofNat 64 r.2.2
                 valid := { s.valid with lzw := true } }

/-- The expansion of a code (R289): a known code's string, or for `k = size`, after a code with expansion `prev`, `prev`
and its own first byte; any other code is out of range. -/
def lzwExpand (dict : List Text) (prev : Option Text) (k : Nat) : Except Err Text :=
  match dict[k]?, prev with
  | some e, _ => .ok e
  | none, none => .error .codeRange
  | none, some p => if k = dict.length then .ok (p ++ p.take 1) else .error .codeRange

/-- The decode loop of R289 on the codes still to be read: `dict` holds the entries' expansions by code, `prev` the
previous code's expansion, `room` the bytes left. The answer is the output and the final size. -/
def lzwReplay : List Nat → List Text → Option Text → Nat → Except Err (Text × Nat)
  | [], dict, _, _ => .ok ([], dict.length)
  | k :: ks, dict, prev, room =>
    match lzwExpand dict prev k with
    | .error e => .error e
    | .ok e =>
      if room < e.length then .error .txFull
      else
        let dict' := match prev with
          | none => dict
          | some p => dict ++ [p ++ e.take 1]
        match lzwReplay ks dict' (some e) (room - e.length) with
        | .error err => .error err
        | .ok r => .ok (e ++ r.1, r.2)

/-- LzwDecode (R289). -/
def lzwDecode (t : Table) (bs tcap : Nat) (bits : BitSeq) : Except Err (Text × Nat) :=
  if bs = 0 then
    if bits.length ≠ 0 then .error .formatLength else .ok ([], t.size)
  else if bits.length % bs ≠ 0 then .error .formatLength
  else lzwReplay ((bitGroups bs (bits.length / bs) bits).map uVal) (t.syms.map (fun c => [c])) none tcap

/-- DEC.LZW (R291). -/
def ruleDecLzw (a b : BufIdx) (s : State) : Except Err State :=
  withTx s a <| withBs s b <| withTable s <| withEom s <| withState s.valid.lzw <|
    match lzwDecode s.table s.lzwBlocksize.toNat s.cap.tcap (s.mem.getBs b) with
    | .error e => .error e
    | .ok r => .ok { s.putTx a r.1 with lzwDictsize := BitVec.ofNat 64 r.2 }

/-- ENC.LZW. -/
def execEncLzw (a b : BufIdx) (s : State) : Host.Outcome State Fault Refusal := finish s (ruleEncLzw a b s)

/-- DEC.LZW. -/
def execDecLzw (a b : BufIdx) (s : State) : Host.Outcome State Fault Refusal := finish s (ruleDecLzw a b s)

end Sys2Proof.Machine
end

