-- ==== Sys2Proof/Machine/ShannonFano.lean ====
section
/-! DEFINITION. The Shannon-Fano code builder and the SF codec (46_shannon_fano.md R215 to R223). -/

namespace Sys2Proof.Machine

/-- The code length of R215 for a weight `w >= 1`: the least `L >= 1` with `w * 2^L >= S`. -/
def sfLength (w S : Nat) : Nat := max 1 (clog2 ((S + w - 1) / w))

/-- SF_LEN[i] <- v. -/
def SfState.setLen (st : SfState) (i v : Nat) : SfState :=
  { st with len := st.len.setIfInBounds i (BitVec.ofNat 6 v) }

/-- SF_CODE[i] <- v. -/
def SfState.setCode (st : SfState) (i v : Nat) : SfState :=
  { st with code := st.code.setIfInBounds i (BitVec.ofNat 32 v) }

/-- The loop of R215 over the symbols still to come in `order`, `cum` being their cumulative weight so far. -/
def sfLoop (t : Table) : List Nat → Nat → SfState → SfState
  | [], _, st => st
  | i :: is, cum, st =>
    sfLoop t is (cum + t.weightAt i) <|
      if t.weightAt i = 0 then st.setLen i 0
      else
        (st.setLen i (sfLength (t.weightAt i) t.total)).setCode i
          (cum * 2 ^ sfLength (t.weightAt i) t.total / t.total)

/-- SfBuild (R215, R216): the Shannon-Fano state of a table. What the rule gives no value is 0 (DESIGN CHOICE, note 5;
unobservable). -/
def sfBuild (t : Table) : SfState :=
  sfLoop t (stableSortDesc t.weights) 0
    { len := Vector.replicate 256 0, code := Vector.replicate 256 0 }

/-- SF_LEN[i]. -/
def SfState.lenAt (st : SfState) (i : Nat) : Nat := (st.len.toList.getD i 0).toNat

/-- The codeword of symbol i (R46): `UBits(SF_CODE[i], SF_LEN[i])`. -/
def SfState.codeword (st : SfState) (i : Nat) : BitSeq := uBits (st.code.toList.getD i 0).toNat (st.lenAt i)

/-- CAND_ALL (R217): the indices in `order` that have a codeword. -/
def sfCandidates (st : SfState) (t : Table) : List Nat :=
  (stableSortDesc t.weights).filter (fun i => decide (0 < st.lenAt i))

/-- The output of ENC.SF (R220). -/
def sfEncode (st : SfState) (idx : List Nat) : BitSeq := idx.flatMap st.codeword

/-- ENC.SF (R220): SYMBOL_ABSENT over the whole text comes before NO_CODE. -/
def ruleEncSf (a b : BufIdx) (s : State) : Except Err State :=
  withBs s a <| withTx s b <| withTable s <| withLookup s (s.mem.getTx b) fun idx =>
    if idx.any (fun i => (sfBuild s.table).lenAt i == 0) then .error .noCode
    else
      storeBits a (sfEncode (sfBuild s.table) idx)
        { s with sf := sfBuild s.table, valid := { s.valid with sf := true } }

/-- The candidates that agree with the `k` bits read so far (R221). -/
def sfNarrow (st : SfState) (cand : List Nat) (read : BitSeq) : List Nat :=
  cand.filter (fun i => decide (read.length ≤ st.lenAt i) && (st.codeword i).take read.length == read)

/-- The sequential elimination of R221. -/
def sfDecode (st : SfState) (t : Table) : BitSeq → List Nat → BitSeq → Nat → Except Err Text
  | [], _, read, _ => if read.length ≠ 0 then .error .formatLength else .ok []
  | b :: bs, cand, read, room =>
    match sfNarrow st cand (read ++ [b]) with
    | [] => .error .candidates
    | i :: rest =>
      if rest = [] ∧ st.lenAt i = (read ++ [b]).length then
        emitSym room (t.symAt i) (sfDecode st t bs (sfCandidates st t) [])
      else sfDecode st t bs (i :: rest) (read ++ [b]) room

/-- DEC.SF (R221). -/
def ruleDecSf (a b : BufIdx) (s : State) : Except Err State :=
  withTx s a <| withBs s b <| withTable s <| withState s.valid.sf <|
    storeText a (sfDecode s.sf s.table (s.mem.getBs b) (sfCandidates s.sf s.table) [] s.cap.tcap) s

/-- The weighted sum of codeword lengths of R222; a symbol without a codeword has length 0 and adds nothing. -/
def sfWeightedLength (st : SfState) (t : Table) : Nat :=
  ((List.range t.size).map (fun i => t.weightAt i * st.lenAt i)).sum

/-- AVG.SF (R222). -/
def ruleAvgSf (s : State) : Except Err State :=
  withTable s <| withState s.valid.sf <|
    .ok { s with res0 := BitVec.ofNat 64 (sfWeightedLength s.sf s.table), res1 := s.table.sum.setWidth 64 }

/-- PREP.SF (R223). -/
def rulePrepSf (s : State) : Except Err State :=
  withTable s (.ok { s with sf := sfBuild s.table, valid := { s.valid with sf := true } })

/-- ENC.SF. -/
def execEncSf (a b : BufIdx) (s : State) : Host.Outcome State Fault Refusal := finish s (ruleEncSf a b s)

/-- DEC.SF. -/
def execDecSf (a b : BufIdx) (s : State) : Host.Outcome State Fault Refusal := finish s (ruleDecSf a b s)

/-- AVG.SF. -/
def execAvgSf (s : State) : Host.Outcome State Fault Refusal := finish s (ruleAvgSf s)

/-- PREP.SF. -/
def execPrepSf (s : State) : Host.Outcome State Fault Refusal := finish s (rulePrepSf s)

end Sys2Proof.Machine
end

