-- ==== Sys2Proof/Machine/SymbolTable.lean ====
section
/-! DEFINITION. The symbol-table commands (41_symbol_table.md R110 to R115). -/

namespace Sys2Proof.Machine

/-- ST_STAGE (R110): write one staging entry. -/
def ruleStStage (s : State) : Except Err State :=
  if h : arg0Nat s < 256 then
    .ok { s with staging := { sym := s.staging.sym.set (arg0Nat s) (arg1Byte s) h
                              w := s.staging.w.set (arg0Nat s) (arg2Weight s) h } }
  else .error .stageIndex

/-- S of R111: the exact sum of the first `na` staged weights. -/
def stagedSum (st : Staging) (na : Nat) : Nat := ((st.w.toList.take na).map BitVec.toNat).sum

/-- The tolerance test of R111: `100 * |S - 2^31| > 2^31`. -/
def sumOutOfTolerance (S : Nat) : Bool :=
  decide (2 ^ 31 < 100 * ((S : Int) - 2 ^ 31).natAbs)

/-- The table ST_BUILD commits (R111): entries at or beyond `na` keep their old values. -/
def builtTable (st : Staging) (old : Table) (na : Nat) : Table :=
  { valid := true
    n := BitVec.ofNat 9 na
    sym := copyFirst na st.sym old.sym
    w := copyFirst na st.w old.w
    sum := BitVec.ofNat 32 (stagedSum st na) }

/-- ST_BUILD (R111): validate the staging arrays and commit the table; VALID[2..4] are cleared (R50). -/
def ruleStBuild (s : State) : Except Err State :=
  if arg0Nat s ≠ arg1Nat s then .error .lengthMismatch
  else if 256 < arg0Nat s then .error .tooMany
  else if sumOutOfTolerance (stagedSum s.staging (arg0Nat s)) then .error .sumTolerance
  else .ok { s with table := builtTable s.staging s.table (arg0Nat s)
                    valid := { s.valid with huf := false, sf := false, arith := false } }

/-- ST_SIZE (R112). -/
def ruleStSize (s : State) : Except Err State :=
  withTable s (.ok { s with res0 := s.table.n.setWidth 64 })

/-- ST_SYMAT (R113). -/
def ruleStSymat (s : State) : Except Err State :=
  withTable s <|
    if s.table.size ≤ arg0Nat s then .error .index
    else .ok { s with res0 := (s.table.symAt (arg0Nat s)).setWidth 64 }

/-- ST_INDEXOF (R114). -/
def ruleStIndexof (s : State) : Except Err State :=
  withTable s <|
    match s.table.indexOf (arg0Byte s) with
    | none => .error .symbolAbsent
    | some i => .ok { s with res0 := BitVec.ofNat 64 i }

/-- ST_PROBAT (R115): the probability is the exact rational RES0 / RES1. -/
def ruleStProbat (s : State) : Except Err State :=
  withTable s <|
    if s.table.size ≤ arg0Nat s then .error .index
    else .ok { s with res0 := BitVec.ofNat 64 (s.table.weightAt (arg0Nat s))
                      res1 := s.table.sum.setWidth 64 }

/-- ST_STAGE. -/
def execStStage (s : State) : Host.Outcome State Fault Refusal := finish s (ruleStStage s)

/-- ST_BUILD. -/
def execStBuild (s : State) : Host.Outcome State Fault Refusal := finish s (ruleStBuild s)

/-- ST_SIZE. -/
def execStSize (s : State) : Host.Outcome State Fault Refusal := finish s (ruleStSize s)

/-- ST_SYMAT. -/
def execStSymat (s : State) : Host.Outcome State Fault Refusal := finish s (ruleStSymat s)

/-- ST_INDEXOF. -/
def execStIndexof (s : State) : Host.Outcome State Fault Refusal := finish s (ruleStIndexof s)

/-- ST_PROBAT. -/
def execStProbat (s : State) : Host.Outcome State Fault Refusal := finish s (ruleStProbat s)

end Sys2Proof.Machine
end

