-- ==== Sys2Proof/Machine/TextBuffer.lean ====
section
/-! DEFINITION. The text-buffer commands (43_text.md R160 to R164). -/

namespace Sys2Proof.Machine

/-- TX_CLEAR (R160). -/
def ruleTxClear (a : BufIdx) (s : State) : Except Err State :=
  withTx s a (.ok (s.putTx a []))

/-- TX_PUSH (R161). -/
def ruleTxPush (a : BufIdx) (s : State) : Except Err State :=
  withTx s a <|
    if s.cap.tcap < (s.mem.getTx a).length + 1 then .error .txFull
    else .ok (s.putTx a (s.mem.getTx a ++ [arg0Byte s]))

/-- TX_GET (R162). -/
def ruleTxGet (a : BufIdx) (s : State) : Except Err State :=
  withTx s a <|
    match (s.mem.getTx a)[arg0Nat s]? with
    | none => .error .index
    | some c => .ok { s with res0 := c.setWidth 64 }

/-- TX_SET (R163). -/
def ruleTxSet (a : BufIdx) (s : State) : Except Err State :=
  withTx s a <|
    if (s.mem.getTx a).length ≤ arg0Nat s then .error .index
    else .ok (s.putTx a ((s.mem.getTx a).set (arg0Nat s) (arg1Byte s)))

/-- TX_LEN (R164). -/
def ruleTxLen (a : BufIdx) (s : State) : Except Err State :=
  withTx s a (.ok { s with res0 := BitVec.ofNat 64 (s.mem.getTx a).length })

/-- TX_CLEAR. -/
def execTxClear (a : BufIdx) (s : State) : Host.Outcome State Fault Refusal := finish s (ruleTxClear a s)

/-- TX_PUSH. -/
def execTxPush (a : BufIdx) (s : State) : Host.Outcome State Fault Refusal := finish s (ruleTxPush a s)

/-- TX_GET. -/
def execTxGet (a : BufIdx) (s : State) : Host.Outcome State Fault Refusal := finish s (ruleTxGet a s)

/-- TX_SET. -/
def execTxSet (a : BufIdx) (s : State) : Host.Outcome State Fault Refusal := finish s (ruleTxSet a s)

/-- TX_LEN. -/
def execTxLen (a : BufIdx) (s : State) : Host.Outcome State Fault Refusal := finish s (ruleTxLen a s)

end Sys2Proof.Machine
end

