-- ==== Sys2Proof/Machine/Dispatch.lean ====
section
/-! DEFINITION. The meaning of every command: one arm per constructor of Instr (30_encoding.md R88). -/

namespace Sys2Proof.Machine

-- The rule of a command with its completion (60_exceptions.md R313).
def exec (i : Instr) (s : State) : Host.Outcome State Fault Refusal :=
  match i with
  | .nop => Sys2Proof.Machine.execNop s
  | .regRd => Sys2Proof.Machine.execRegRd s
  | .regWr => Sys2Proof.Machine.execRegWr s
  | .bsClear a => Sys2Proof.Machine.execBsClear a s
  | .bsAppb a => Sys2Proof.Machine.execBsAppb a s
  | .bsAppu8 a => Sys2Proof.Machine.execBsAppu8 a s
  | .bsAppu16 a => Sys2Proof.Machine.execBsAppu16 a s
  | .bsAppu32 a => Sys2Proof.Machine.execBsAppu32 a s
  | .bsAppu64 a => Sys2Proof.Machine.execBsAppu64 a s
  | .bsCat a b => Sys2Proof.Machine.execBsCat a b s
  | .bsAppt a b => Sys2Proof.Machine.execBsAppt a b s
  | .bsPop a => Sys2Proof.Machine.execBsPop a s
  | .bsGet a => Sys2Proof.Machine.execBsGet a s
  | .bsSet a => Sys2Proof.Machine.execBsSet a s
  | .bsLen a => Sys2Proof.Machine.execBsLen a s
  | .bsRender a b => Sys2Proof.Machine.execBsRender a b s
  | .txClear a => Sys2Proof.Machine.execTxClear a s
  | .txPush a => Sys2Proof.Machine.execTxPush a s
  | .txGet a => Sys2Proof.Machine.execTxGet a s
  | .txSet a => Sys2Proof.Machine.execTxSet a s
  | .txLen a => Sys2Proof.Machine.execTxLen a s
  | .stStage => Sys2Proof.Machine.execStStage s
  | .stBuild => Sys2Proof.Machine.execStBuild s
  | .stSize => Sys2Proof.Machine.execStSize s
  | .stSymat => Sys2Proof.Machine.execStSymat s
  | .stIndexof => Sys2Proof.Machine.execStIndexof s
  | .stProbat => Sys2Proof.Machine.execStProbat s
  | .encFixed a b => Sys2Proof.Machine.execEncFixed a b s
  | .decFixed a b => Sys2Proof.Machine.execDecFixed a b s
  | .avgFixed => Sys2Proof.Machine.execAvgFixed s
  | .encBlock a b => Sys2Proof.Machine.execEncBlock a b s
  | .decBlock a b => Sys2Proof.Machine.execDecBlock a b s
  | .avgBlock => Sys2Proof.Machine.execAvgBlock s
  | .encHuf a b => Sys2Proof.Machine.execEncHuf a b s
  | .decHuf a b => Sys2Proof.Machine.execDecHuf a b s
  | .avgHuf => Sys2Proof.Machine.execAvgHuf s
  | .prepHuf => Sys2Proof.Machine.execPrepHuf s
  | .encSf a b => Sys2Proof.Machine.execEncSf a b s
  | .decSf a b => Sys2Proof.Machine.execDecSf a b s
  | .avgSf => Sys2Proof.Machine.execAvgSf s
  | .prepSf => Sys2Proof.Machine.execPrepSf s
  | .encArith a b => Sys2Proof.Machine.execEncArith a b s
  | .decArith a b => Sys2Proof.Machine.execDecArith a b s
  | .prepArith => Sys2Proof.Machine.execPrepArith s
  | .encLz77 a b => Sys2Proof.Machine.execEncLz77 a b s
  | .decLz77 a b => Sys2Proof.Machine.execDecLz77 a b s
  | .encLzw a b => Sys2Proof.Machine.execEncLzw a b s
  | .decLzw a b => Sys2Proof.Machine.execDecLzw a b s

end Sys2Proof.Machine
end

