-- ==== Sys2Proof/Machine/HostPort.lean ====
section
/-! DEFINITION. The host port and the reset input (10_state.md R22 to R26; 70_reset_and_hazards.md R330, R342): what the
host's reads return, what its writes do, and what a reset leaves. -/

namespace Sys2Proof.Machine

/-- What a host read at a byte offset returns (R22, R23): 0 at any other offset. -/
def portRead (s : State) (off : Nat) : Word64 :=
  if off = 0x00 then s.lCmd.setWidth 64
  else if off = 0x08 then s.arg0
  else if off = 0x10 then s.arg1
  else if off = 0x18 then s.arg2
  else if off = 0x20 then s.res0
  else if off = 0x28 then s.res1
  else if off = 0x30 then statusWord s.status
  else 0

/-- A host write of CMD (R23, R342): accepted while idle, dropped with OVR <- 1 while busy. -/
def writeCmd (s : State) (v : Word64) : State :=
  if s.status.busy then { s with status := { s.status with ovr := true } }
  else
    { s with lCmd := v.extractLsb' 0 32
             lArg0 := s.arg0, lArg1 := s.arg1, lArg2 := s.arg2
             status := { s.status with busy := true } }

/-- A host write at a byte offset (R22 to R24): CMD and the ARGs take it; RES0, RES1, STATUS and any other offset
ignore it. -/
def portWrite (s : State) (off : Nat) (v : Word64) : State :=
  if off = 0x00 then writeCmd s v
  else if off = 0x08 then { s with arg0 := v }
  else if off = 0x10 then { s with arg1 := v }
  else if off = 0x18 then { s with arg2 := v }
  else s

/-- One host access. A read changes nothing of the core; the model notes the value it returned (note 2). -/
def hostAccess (a : HostAccess) (s : State) : State :=
  match a with
  | .read off => { s with hostSaw := portRead s off :: s.hostSaw }
  | .write off v => portWrite s off v

/-- The platform's reset (R330): every element at its reset value, a pending command abandoned. The instance's
parameters are constants, and the host's own remaining accesses and what it saw are not the core's (note 16). -/
def platformReset (s : State) : State :=
  { State.resetFor s.cap with turns := s.turns, hostSaw := s.hostSaw }

end Sys2Proof.Machine
end

