-- ==== Sys2Proof/Machine/Step.lean ====
section
/-! DEFINITION. The step of the machine: the sequencer's step (70_reset_and_hazards.md R340), and whose turn it is. -/

namespace Sys2Proof.Machine

/-- The sequencer's turn (R340): with a command pending, decode L_CMD (R88), perform its rule and complete; a word that
is no command completes with ILLEGAL(BAD_OPCODE) (R82). With none pending the core is idle and keeps all state (R329). -/
def sequencerStep (s : State) : Host.Outcome State Fault Refusal :=
  if s.status.busy then
    match decode s.lCmd with
    | .ok i => exec i s
    | .error .badOpcode => finish s (.error .badOpcode)
  else .next s

/-- One step: the agent whose turn it is moves once (note 1); with no turns left, the sequencer. -/
def step (s : State) : Host.Outcome State Fault Refusal :=
  match s.turns with
  | [] => sequencerStep s
  | .sequencer :: ts => sequencerStep { s with turns := ts }
  | .host a :: ts => .next (hostAccess a { s with turns := ts })
  | .reset :: ts => .next (platformReset { s with turns := ts })

/-- `s` with a command word accepted and the sequencer's turn next, so that the very next step runs it (note 3): the core
has no program memory (20_memory.md R70), a command is in L_CMD while BUSY = 1 (10_state.md R23, R28). -/
def State.withFetchWord (s : State) (nbits w : Nat) : State :=
  { s with lCmd := BitVec.ofNat 32 (w % 2 ^ nbits)
           status := { s.status with busy := true }
           turns := .sequencer :: s.turns }

end Sys2Proof.Machine
end

