-- ==== Sys2Proof/Machine/HostProgram.lean ====
section
/-! DEFINITION. What a host's program expands to (30_encoding.md R89, R90; 42_bitstream.md R143; 70_reset_and_hazards.md
R341): the accesses of one assembled command, the pseudo-instructions, and the natural encoding of a container with the
commands that append it. The core never sees any of it: it sees the accesses. -/

namespace Sys2Proof.Machine

/-- A command as the assembler writes it (R89): the command and the ARG values named in braces. -/
structure AsmCmd where
  instr : Instr
  arg0  : Option Word64 := none
  arg1  : Option Word64 := none
  arg2  : Option Word64 := none
  deriving DecidableEq, Repr

/-- The write of one named ARG; an ARG that is not named keeps its value (R89). -/
def argWrite (off : Nat) : Option Word64 → List Turn
  | none => []
  | some v => [.host (.write off v)]

/-- The host-port sequence of a command (R89, R341): write the named ARGs, write CMD, let the sequencer take its step,
read STATUS. One read sees BUSY = 0, the sequencer having moved. DESIGN CHOICE (note 20): it ends there, as R89 does; the
result reads of R341's step 4 are `resultReads`, which a host appends for a command that returns results. -/
def asmTurns (c : AsmCmd) : List Turn :=
  argWrite 0x08 c.arg0 ++ argWrite 0x10 c.arg1 ++ argWrite 0x18 c.arg2 ++
    [.host (.write 0x00 ((encode c.instr).setWidth 64)), .sequencer, .host (.read 0x30)]

/-- The reads of RES0 and RES1 that step 4 of R341 adds for a command that returns results (note 20). -/
def resultReads : List Turn := [.host (.read 0x20), .host (.read 0x28)]

/-- The state in which an idle core runs a command: the named ARGs written, the word accepted (R23, R341). -/
def issueCommand (c : AsmCmd) (s : State) : State :=
  writeCmd { s with arg0 := c.arg0.getD s.arg0, arg1 := c.arg1.getD s.arg1, arg2 := c.arg2.getD s.arg2 }
    ((encode c.instr).setWidth 64)

/-- A sequence of commands, each issued when the one before it has completed. -/
def runCommands : List AsmCmd → State → Host.Outcome State Fault Refusal
  | [], s => .next s
  | c :: cs, s =>
    match exec c.instr (issueCommand c s) with
    | .next t => runCommands cs t
    | .fault f => .fault f
    | .refused r => .refused r

/-- The widths of a typed append (R132 to R135). -/
inductive AppWidth where
  | u8 | u16 | u32 | u64
  deriving DecidableEq, Repr

/-- The width in bits. -/
def widthBits : AppWidth → Nat
  | .u8 => 8
  | .u16 => 16
  | .u32 => 32
  | .u64 => 64

/-- The append command of a width. -/
def appendInstr (a : BufIdx) : AppWidth → Instr
  | .u8 => .bsAppu8 a
  | .u16 => .bsAppu16 a
  | .u32 => .bsAppu32 a
  | .u64 => .bsAppu64 a

/-- The pseudo-instructions of R90. -/
inductive Pseudo where
  /-- `BS_COPY bA, bB` -/
  | bsCopy (a b : BufIdx)
  /-- `TX_LOAD tA, "s"` -/
  | txLoad (a : BufIdx) (text : Text)
  /-- `ST_LOAD "syms", [weights]`, one weight per symbol -/
  | stLoad (entries : List (Byte × Word32))
  /-- `SET_EOM c` -/
  | setEom (c : Byte)
  /-- `BS_APPU bA, v, w` -/
  | bsAppu (a : BufIdx) (v : Word64) (w : AppWidth)
  deriving DecidableEq, Repr

/-- The condition R90 puts on a pseudo-instruction. -/
def pseudoOk : Pseudo → Bool
  | .bsCopy a b => a != b
  | .stLoad es => decide (es.length ≤ 256)
  | .txLoad _ _ | .setEom _ | .bsAppu _ _ _ => true

/-- The ST_STAGE commands of a list of entries, from staging index `i` on. -/
def stageCommands : Nat → List (Byte × Word32) → List AsmCmd
  | _, [] => []
  | i, e :: es =>
    { instr := .stStage, arg0 := some (BitVec.ofNat 64 i), arg1 := some (e.1.setWidth 64),
      arg2 := some (e.2.setWidth 64) } :: stageCommands (i + 1) es

/-- The expansion of a pseudo-instruction (R90). -/
def expandPseudo : Pseudo → List AsmCmd
  | .bsCopy a b => [{ instr := .bsClear a }, { instr := .bsCat a b }]
  | .txLoad a text =>
    { instr := .txClear a } :: text.map (fun c => { instr := .txPush a, arg0 := some (c.setWidth 64) })
  | .stLoad es =>
    stageCommands 0 es ++
      [{ instr := .stBuild, arg0 := some (BitVec.ofNat 64 es.length), arg1 := some (BitVec.ofNat 64 es.length) }]
  | .setEom c => [{ instr := .regWr, arg0 := some 0x01, arg1 := some (c.setWidth 64) }]
  | .bsAppu a v w => [{ instr := appendInstr a w, arg0 := some v }]

/-- The values R143 gives a natural encoding. A bit stream and a run of bytes are held in buffers. -/
inductive NatVal where
  | bit (b : Bool)
  | uint (w : AppWidth) (v : Word64)
  | stream (b : BufIdx)
  | bytes (t : BufIdx)
  | seq (es : List NatVal)

mutual

/-- `NatEnc` (R143), the buffers it names read from `m`. -/
def natEnc (m : Memory) : NatVal → BitSeq
  | .bit b => [b]
  | .uint w v => uBits v.toNat (widthBits w)
  | .stream b => m.getBs b
  | .bytes t => textBits (m.getTx t)
  | .seq es => natEncList m es

/-- The elements' encodings, concatenated (R143). -/
def natEncList (m : Memory) : List NatVal → BitSeq
  | [] => []
  | e :: es => natEnc m e ++ natEncList m es

end

mutual

/-- The commands that append `NatEnc(x)` to BS[a], one per leaf element in depth-first order (R143). -/
def natCommands (a : BufIdx) : NatVal → List AsmCmd
  | .bit b => [{ instr := .bsAppb a, arg0 := some (BitVec.ofNat 64 b.toNat) }]
  | .uint w v => [{ instr := appendInstr a w, arg0 := some v }]
  | .stream b => [{ instr := .bsCat a b }]
  | .bytes t => [{ instr := .bsAppt a t }]
  | .seq es => natCommandsList a es

/-- The commands of the elements in order. -/
def natCommandsList (a : BufIdx) : List NatVal → List AsmCmd
  | [] => []
  | e :: es => natCommands a e ++ natCommandsList a es

end

mutual

/-- The bit-stream buffers a value reads. -/
def natStreams : NatVal → List BufIdx
  | .bit _ | .uint _ _ | .bytes _ => []
  | .stream b => [b]
  | .seq es => natStreamsList es

/-- The bit-stream buffers the elements read. -/
def natStreamsList : List NatVal → List BufIdx
  | [] => []
  | e :: es => natStreams e ++ natStreamsList es

end

mutual

/-- The text buffers a value reads. -/
def natTexts : NatVal → List BufIdx
  | .bit _ | .uint _ _ | .stream _ => []
  | .bytes t => [t]
  | .seq es => natTextsList es

/-- The text buffers the elements read. -/
def natTextsList : List NatVal → List BufIdx
  | [] => []
  | e :: es => natTexts e ++ natTextsList es

end

end Sys2Proof.Machine
end

