-- ==== Sys2Proof/Safety.lean ====
section
/-! DEFINITION. What statements about runs are made of: the invariant of the machine, what stays the same across a command
(frames), what the world can observe (70_reset_and_hazards.md R351), and the end of a run. -/

namespace Sys2Proof.Machine

/-! ### The invariant -/

/-- A built table has 1 to 256 symbols, ST_SUM is the sum of its weights and lies within the tolerance (R32, R111). -/
abbrev Table.wf (t : Table) : Prop :=
  t.valid = true →
    1 ≤ t.size ∧ t.size ≤ 256 ∧ t.total = t.weights.sum ∧ 2126008812 ≤ t.total ∧ t.total ≤ 2168958484

/-- The derived state behind a set VALID[2..4] bit is the one its codec builds from the table that is there (R45 to R47,
R50). -/
abbrev State.derivedOk (s : State) : Prop :=
  (s.valid.huf = true → s.table.valid = true ∧ s.huf = hufBuild s.table) ∧
  (s.valid.sf = true → s.table.valid = true ∧ s.sf = sfBuild s.table) ∧
  (s.valid.arith = true → s.table.valid = true ∧ s.ar = arBuild s.table)

/-- ERR and DETAIL are a pair of the tables of R300 and R301, and a recorded error is in ANYERR too (R26, R313). -/
def Status.ok (st : Status) : Prop :=
  (∃ r : Option Err, st.err = kindOf r ∧ st.detail = detailOf r) ∧ (st.err ≠ 0 → st.anyErr = true)

/-- The invariant of the machine: every step keeps it, and it holds at reset. -/
structure State.Inv (s : State) : Prop where
  params  : s.cap.ok
  buffers : Memory.wf s.cap s.mem
  table   : s.table.wf
  derived : s.derivedOk
  status  : s.status.ok

/-! ### Frames -/

/-- What no command changes: the instance's parameters, the operand registers, the latches, and the host's own plan. -/
structure SameHostSide (s t : State) : Prop where
  cap     : t.cap = s.cap
  arg0    : t.arg0 = s.arg0
  arg1    : t.arg1 = s.arg1
  arg2    : t.arg2 = s.arg2
  lCmd    : t.lCmd = s.lCmd
  lArg0   : t.lArg0 = s.lArg0
  lArg1   : t.lArg1 = s.lArg1
  lArg2   : t.lArg2 = s.lArg2
  turns   : t.turns = s.turns
  hostSaw : t.hostSaw = s.hostSaw

/-- The host-writable and informative configuration registers but VALID are unchanged. -/
structure SameConfig (s t : State) : Prop where
  eom       : t.eom = s.eom
  window    : t.lz77Window = s.lz77Window
  lookahead : t.lz77Lookahead = s.lz77Lookahead
  blocksize : t.lzwBlocksize = s.lzwBlocksize
  dictsize  : t.lzwDictsize = s.lzwDictsize

/-- The symbol table and the staging arrays are unchanged. -/
structure SameTables (s t : State) : Prop where
  staging : t.staging = s.staging
  table   : t.table = s.table

/-- The codec derived state and every VALID bit are unchanged. -/
structure SameDerived (s t : State) : Prop where
  huf   : t.huf = s.huf
  sf    : t.sf = s.sf
  ar    : t.ar = s.ar
  valid : t.valid = s.valid

/-- The result registers are unchanged. -/
structure SameResults (s t : State) : Prop where
  res0 : t.res0 = s.res0
  res1 : t.res1 = s.res1

/-- Every bit-stream buffer but those in `except` is unchanged. -/
def SameStreams (except : List BufIdx) (s t : State) : Prop :=
  ∀ b : BufIdx, b ∉ except → t.mem.getBs b = s.mem.getBs b

/-- Every text buffer but those in `except` is unchanged. -/
def SameTexts (except : List BufIdx) (s t : State) : Prop :=
  ∀ b : BufIdx, b ∉ except → t.mem.getTx b = s.mem.getTx b

/-- `t` is `s` after a completion without error (R313), whatever else changed. -/
structure CompletedOk (s t : State) : Prop where
  err      : t.status.err = 0
  detail   : t.status.detail = 0
  busy     : t.status.busy = false
  ovr      : t.status.ovr = s.status.ovr
  anyErr   : t.status.anyErr = s.status.anyErr
  lastOp   : t.status.lastOp = s.lCmd.extractLsb' 0 8
  cmdCount : t.cmdCount = s.cmdCount + 1

/-- `t` is `s` after a completion with error `e` (R303, R313): everything but STATUS and CMDCOUNT as before. -/
structure CompletedWith (e : Err) (s t : State) : Prop where
  err      : t.status.err = errKind e
  detail   : t.status.detail = errDetail e
  busy     : t.status.busy = false
  ovr      : t.status.ovr = s.status.ovr
  anyErr   : t.status.anyErr = true
  lastOp   : t.status.lastOp = s.lCmd.extractLsb' 0 8
  cmdCount : t.cmdCount = s.cmdCount + 1
  host     : SameHostSide s t
  results  : SameResults s t
  mem      : t.mem = s.mem
  tables   : SameTables s t
  config   : SameConfig s t
  derived  : SameDerived s t

/-- A register-only completion without error: everything but the result registers, STATUS and CMDCOUNT as before. -/
structure ResultsOnly (s t : State) : Prop where
  ok      : CompletedOk s t
  host    : SameHostSide s t
  mem     : t.mem = s.mem
  tables  : SameTables s t
  config  : SameConfig s t
  derived : SameDerived s t

/-- A completion without error that writes one bit-stream buffer and nothing else but STATUS and CMDCOUNT. -/
structure OneStreamWritten (a : BufIdx) (s t : State) : Prop where
  ok      : CompletedOk s t
  host    : SameHostSide s t
  results : SameResults s t
  streams : SameStreams [a] s t
  texts   : t.mem.tx = s.mem.tx
  tables  : SameTables s t
  config  : SameConfig s t
  derived : SameDerived s t

/-- A completion without error that writes one text buffer and nothing else but STATUS and CMDCOUNT. -/
structure OneTextWritten (a : BufIdx) (s t : State) : Prop where
  ok      : CompletedOk s t
  host    : SameHostSide s t
  results : SameResults s t
  streams : t.mem.bs = s.mem.bs
  texts   : SameTexts [a] s t
  tables  : SameTables s t
  config  : SameConfig s t
  derived : SameDerived s t

/-! ### What the world observes -/

/-- The state with the derived state that no VALID bit vouches for put at one fixed value: what R45 to R47 call
unspecified and unobservable. -/
def State.masked (s : State) : State :=
  { s with
    huf := if s.valid.huf then s.huf else HufState.reset
    sf := if s.valid.sf then s.sf else SfState.reset
    ar := if s.valid.arith then s.ar else ArState.reset }

/-- Two states that differ at most in unobservable derived state. -/
def State.obsEq (s t : State) : Prop := s.masked = t.masked

/-- The Huffman state where R45 gives it a meaning: the children of the internal nodes `n..2n-2` in order, the lengths and
codes of the leaves `0..n-1`. -/
structure HufView where
  n        : BitVec 9
  root     : BitVec 9
  children : List (BitVec 9 × BitVec 9)
  lengths  : List (BitVec 8)
  codes    : List BitSeq
  deriving DecidableEq, Repr

/-- What R45 names of a Huffman state. -/
def HufState.view (h : HufState) : HufView :=
  { n := h.n
    root := h.root
    children := (List.range' h.n.toNat (h.n.toNat - 1)).map (fun k => (h.c0.toList.getD k 0, h.c1.toList.getD k 0))
    lengths := h.len.toList.take h.n.toNat
    codes := h.code.toList.take h.n.toNat }

/-- What R46 names of a Shannon-Fano state over `n` symbols: each symbol's length and codeword, empty for a length of 0. -/
def SfState.view (st : SfState) (n : Nat) : List (Nat × BitSeq) :=
  (List.range n).map (fun i => (st.lenAt i, st.codeword i))

/-- What R47 names of an arithmetic state: AR_N and AR_CUM[0..AR_N]. -/
def ArState.view (st : ArState) : BitVec 9 × List Word32 := (st.n, st.cum.toList.take (st.n.toNat + 1))

/-- The observation at the end of a run (R351): the port, the configuration registers, the buffers, the table as the read
commands return it, and the codec state whose VALID bit is 1. -/
structure Observation where
  port    : List Word64
  regs    : List Word64
  buffers : Memory
  syms    : List Byte
  weights : List Nat
  huf     : Option HufView
  sf      : Option (List (Nat × BitSeq))
  ar      : Option (BitVec 9 × List Word32)
  deriving DecidableEq, Repr

/-- What R351 lets the world see of a state. Of the HUF_*, SF_* and AR_* contents it sees nothing while their VALID bit
is 0; the codec state of LZ77 and LZW is in the configuration registers. -/
def observe (s : State) : Observation :=
  { port := [0x00, 0x08, 0x10, 0x18, 0x20, 0x28, 0x30].map (portRead s)
    regs := [Reg.id, .eom, .valid, .lz77Window, .lz77Lookahead, .lzwBlocksize, .lzwDictsize, .stValid, .stN, .stSum,
      .cmdCount, .capNbs, .capNtb, .capBcap, .capTcap, .capNsym, .capP].map (regValue s)
    buffers := s.mem
    syms := if s.table.valid then s.table.syms else []
    weights := if s.table.valid then s.table.weights else []
    huf := if s.valid.huf then some s.huf.view else none
    sf := if s.valid.sf then some (s.sf.view s.table.size) else none
    ar := if s.valid.arith then some s.ar.view else none }

/-- A run has ended (R351): the host has made its last access and no command is pending. DESIGN CHOICE (note 21): R351
says nothing of a reset or an idle sequencer's turn that is still to come; here a run ends when those are taken too. -/
abbrev State.ended (s : State) : Prop := s.turns = [] ∧ s.status.busy = false

/-! ### Classes of commands -/

/-- The commands that only read (R66), with NOP and the averages: they write at most RES0 and RES1. -/
def isReadCommand : Instr → Bool
  | .nop | .regRd | .bsGet _ | .bsLen _ | .txGet _ | .txLen _ | .stSize | .stSymat | .stIndexof | .stProbat
  | .avgFixed | .avgBlock | .avgHuf | .avgSf => true
  | _ => false

/-- The commands that test ST_VALID (R112 to R115, R172). -/
def needsTable : Instr → Bool
  | .stSize | .stSymat | .stIndexof | .stProbat
  | .encBlock _ _ | .decBlock _ _ | .avgBlock
  | .encHuf _ _ | .decHuf _ _ | .avgHuf | .prepHuf
  | .encSf _ _ | .decSf _ _ | .avgSf | .prepSf
  | .encArith _ _ | .decArith _ _ | .prepArith
  | .encLz77 _ _ | .decLz77 _ _ | .encLzw _ _ | .decLzw _ _ => true
  | _ => false

/-- The commands that test the sentinel (R245, R246, R290, R291). -/
def needsEom : Instr → Bool
  | .encArith _ _ | .decArith _ _ | .encLzw _ _ | .decLzw _ _ => true
  | _ => false

/-- The VALID bit a command tests (R174), if it tests one. -/
def needsState (v : Valid) : Instr → Option Bool
  | .decHuf _ _ | .avgHuf => some v.huf
  | .decSf _ _ | .avgSf => some v.sf
  | .decArith _ _ => some v.arith
  | .decLz77 _ _ => some v.lz77
  | .decLzw _ _ => some v.lzw
  | _ => none

/-- The message an encoder looks up (R173, R240, R286), if the command is an encoder with a lookup. -/
def messageOf (s : State) : Instr → Option Text
  | .encBlock _ b | .encHuf _ b | .encSf _ b | .encLz77 _ b => some (s.mem.getTx b)
  | .encArith _ b => some (arMessage s.eom (s.mem.getTx b))
  | .encLzw _ b => some (lzwMessage s.eom (s.mem.getTx b))
  | _ => none

/-- What a decoder's decode function answers (R171): its output and the dictionary size it leaves, or its error. Only
LZW changes LZW_DICTSIZE. -/
def decodedBy (s : State) : Instr → Option (BufIdx × Except Err (Text × Word64))
  | .decFixed a b => some (a, (decodeFixed s.cap.tcap (s.mem.getBs b)).map (·, s.lzwDictsize))
  | .decBlock a b => some (a, (decodeBlock s.table s.cap.tcap (s.mem.getBs b)).map (·, s.lzwDictsize))
  | .decHuf a b => some (a, (hufDecode s.huf s.table s.cap.tcap (s.mem.getBs b)).map (·, s.lzwDictsize))
  | .decSf a b =>
    some (a, (sfDecode s.sf s.table (s.mem.getBs b) (sfCandidates s.sf s.table) [] s.cap.tcap).map (·, s.lzwDictsize))
  | .decArith a b =>
    some (a, (arDecode s.ar s.table s.eom s.cap.tcap arStart
      (BitFeed.fill Config.precision { v := 0, rest := s.mem.getBs b })).map (·, s.lzwDictsize))
  | .decLz77 a b =>
    some (a, (lzDecode s.table s.lz77Window.toNat s.lz77Lookahead.toNat s.cap.tcap (s.mem.getBs b)).map
      (·, s.lzwDictsize))
  | .decLzw a b =>
    some (a, (lzwDecode s.table s.lzwBlocksize.toNat s.cap.tcap (s.mem.getBs b)).map
      (fun r => (r.1, BitVec.ofNat 64 r.2)))
  | _ => none

/-- The bit-stream buffer a command writes when it succeeds (R81's destination fields of kind `b`), if it has one. -/
def destStream : Instr → Option BufIdx
  | .bsClear a | .bsAppb a | .bsAppu8 a | .bsAppu16 a | .bsAppu32 a | .bsAppu64 a | .bsCat a _ | .bsAppt a _
  | .bsPop a | .bsSet a => some a
  | .encFixed a _ | .encBlock a _ | .encHuf a _ | .encSf a _ | .encArith a _ | .encLz77 a _ | .encLzw a _ => some a
  | _ => none

/-- The text buffer a command writes when it succeeds (R81's destination fields of kind `t`), if it has one. -/
def destText : Instr → Option BufIdx
  | .bsRender a _ | .txClear a | .txPush a | .txSet a => some a
  | .decFixed a _ | .decBlock a _ | .decHuf a _ | .decSf a _ | .decArith a _ | .decLz77 a _ | .decLzw a _ => some a
  | _ => none

/-! ### What the dictionary coders write and read -/

/-- The text from `pos` on agrees with the text `d` places back for `l` symbols, within the lookahead and the text (the
inner loop of R268). -/
def LzMatch (text : Text) (la pos d l : Nat) : Prop :=
  l ≤ la ∧ pos + l ≤ text.length ∧ ∀ j : Nat, j < l → text[pos + j - d]? = text[pos + j]?

/-- The tokens R268 emits from `pos` on, said without its search: a literal stands exactly where no distance in the window
gives a match of 3; a match is of at least 3, the longest there is, and of the longest the nearest. -/
def LzGreedy (text : Text) (idx : List Nat) (win la : Nat) : Nat → List LzToken → Prop
  | pos, [] => pos = text.length
  | pos, .literal i :: ts =>
    idx[pos]? = some i ∧ (∀ d : Nat, 1 ≤ d → d ≤ win → d ≤ pos → ¬ LzMatch text la pos d 3) ∧
      LzGreedy text idx win la (pos + 1) ts
  | pos, .copy d l :: ts =>
    (1 ≤ d ∧ d ≤ win ∧ d ≤ pos ∧ 3 ≤ l ∧ LzMatch text la pos d l) ∧
      (∀ e k : Nat, 1 ≤ e → e ≤ win → e ≤ pos → LzMatch text la pos e k → k ≤ l ∧ (k = l → d ≤ e)) ∧
      LzGreedy text idx win la (pos + l) ts

/-- The strings `es` that a list of LZW codes `ks` stands for, said without a table (R285, R289): a code below ST_N is its
symbol; code `ST_N + m` is the entry made after code `m + 1` of the list, the string of code `m` and the first byte of the
next one; the code equal to the size reached is the previous string and its own first byte. -/
abbrev LzwStrings (t : Table) (ks : List Nat) (es : List Text) : Prop :=
  es.length = ks.length ∧
  ∀ j : Nat, j < ks.length →
    (ks.getD j 0 < t.size ∧ es.getD j [] = [t.symAt (ks.getD j 0)]) ∨
    (t.size ≤ ks.getD j 0 ∧ ks.getD j 0 + 1 < t.size + j ∧
      es.getD j [] = es.getD (ks.getD j 0 - t.size) [] ++ (es.getD (ks.getD j 0 - t.size + 1) []).take 1) ∨
    (1 ≤ j ∧ ks.getD j 0 + 1 = t.size + j ∧ es.getD j [] = es.getD (j - 1) [] ++ (es.getD (j - 1) []).take 1)

end Sys2Proof.Machine
end

