-- ==== Sys2Proof/Certificates/Slice0/Obligations.lean ====
section
/-! DEFINITION. The statements for the provers. Each is a rule of the spec, or rests on rules of the spec, about the model.
`∃ t, exec i s = .next t ∧ …` says that the command completes, and what the next state holds. -/

open Sys2Proof Sys2Proof.Machine

/-! ## Encoding (30_encoding.md) -/

/-- Words written out from R80 and R86 decode to the commands they stand for, one or more of each family. -/
def Obligations.SpecWordsDecode : Prop :=
  decode 0x00000000 = .ok .nop ∧ decode 0x00000001 = .ok .regRd ∧
  decode 0x0000001A = .ok (.bsSet 0) ∧ decode 0x0000131C = .ok (.bsRender 3 1) ∧ decode 0x00000F24 = .ok (.txLen 15) ∧
  decode 0x00000031 = .ok .stBuild ∧ decode 0x00010140 = .ok (.encBlock 1 0) ∧ decode 0x00020141 = .ok (.decHuf 1 0) ∧
  decode 0x00030042 = .ok .avgSf ∧ decode 0x00041241 = .ok (.decArith 2 1) ∧ decode 0x00051140 = .ok (.encLz77 1 1) ∧
  decode 0x00060141 = .ok (.decLzw 1 0) ∧
  decode 0x00100000 = .error .badOpcode ∧ decode 0x00040042 = .error .badOpcode

/-- Decoding and encoding agree: a word decodes to a command exactly when it is that command's word. So decoding the word of
any command, whatever its operands, gives it back, and no bit of a legal word is ignored. -/
def Obligations.DecodeAndEncodeAgree : Prop := ∀ (w : Word32) (i : Instr), decode w = .ok i ↔ w = encode i

/-- R82: the rows never overlap, and a word is legal exactly when one row matches it. -/
def Obligations.LegalWordMatchesExactlyOneRow : Prop :=
  ∀ w : Word32,
    (opRows.filter (rowMatches w)).length ≤ 1 ∧
    ((∃ i, decode w = .ok i) ↔ (opRows.filter (rowMatches w)).length = 1)

/-- R82, R87: what is illegal, class by class: RSV not 0, an OPC outside the table, a codec number outside the operation's
list, and a nonzero field the operation does not use. -/
def Obligations.ReservedWordsAreRejected : Prop :=
  ∀ w : Word32,
    (rsvField w ≠ 0 ∨
     (3 ≤ (opcField w).toNat ∧ (opcField w).toNat ≤ 0x0F) ∨ (0x1D ≤ (opcField w).toNat ∧ (opcField w).toNat ≤ 0x1F) ∨
     (0x25 ≤ (opcField w).toNat ∧ (opcField w).toNat ≤ 0x2F) ∨ (0x36 ≤ (opcField w).toNat ∧ (opcField w).toNat ≤ 0x3F) ∨
     0x44 ≤ (opcField w).toNat ∨
     7 ≤ (cField w).toNat ∨ ((opcField w).toNat < 0x40 ∧ cField w ≠ 0) ∨
     (opcField w = 0x42 ∧ 4 ≤ (cField w).toNat) ∨
     (opcField w = 0x43 ∧ (cField w = 0 ∨ cField w = 1 ∨ 5 ≤ (cField w).toNat)) ∨
     (opcField w ∈ [0x00#8, 0x01#8, 0x02#8, 0x30#8, 0x31#8, 0x32#8, 0x33#8, 0x34#8, 0x35#8, 0x42#8, 0x43#8] ∧
        (aField w ≠ 0 ∨ bField w ≠ 0)) ∨
     (opcField w ∈ [0x10#8, 0x11#8, 0x12#8, 0x13#8, 0x14#8, 0x15#8, 0x18#8, 0x19#8, 0x1A#8, 0x1B#8, 0x20#8, 0x21#8,
        0x22#8, 0x23#8, 0x24#8] ∧ bField w ≠ 0)) →
    decode w = .error .badOpcode

/-! ## The step (70_reset_and_hazards.md) -/

/-- R340, R88: with a command pending and the sequencer to move, a step is the pending command's meaning; with none
pending it changes nothing (R329). The order of turns is the model's own (note 1). -/
def Obligations.StepRunsThePendingCommand : Prop :=
  ∀ (s : State) (i : Instr) (ts : List Turn),
    (s.turns = [] → s.status.busy = true → decode s.lCmd = .ok i → step s = exec i s) ∧
    (s.turns = .sequencer :: ts → s.status.busy = true → decode s.lCmd = .ok i →
      step s = exec i { s with turns := ts }) ∧
    (s.turns = [] → s.status.busy = false → step s = .next s)

/-- R82, R88: a pending word that is no command completes with ILLEGAL(BAD_OPCODE) and changes nothing else. That the
sequencer moves with no turns left, and that a turn of its own is taken off the list, is the model's own (note 1). -/
def Obligations.IllegalWordCompletesAsBadOpcode : Prop :=
  ∀ (s : State) (ts : List Turn), s.status.busy = true → decode s.lCmd = .error .badOpcode →
    (s.turns = [] → ∃ t, step s = .next t ∧ CompletedWith .badOpcode s t) ∧
    (s.turns = .sequencer :: ts → ∃ t, step s = .next t ∧ CompletedWith .badOpcode { s with turns := ts } t)

/-- R304: nothing stops the core: every step answers a next state, whatever the state. -/
def Obligations.EveryStepAnswersANextState : Prop := ∀ s : State, ∃ t, step s = .next t

/-- The command word set up by `withFetchWord` is what the next step runs, for every command (notes 1 and 3 are the
model's choices here). -/
def Obligations.FetchedWordIsRunNext : Prop :=
  ∀ (i : Instr) (s : State),
    step (s.withFetchWord 32 (encode i).toNat) =
      exec i { s with lCmd := encode i, status := { s.status with busy := true } }

/-- R341: the host-port sequence of a command, run from an idle core, leaves what the command leaves, and its last access
reads the STATUS of the completion; with the result reads after it, those read RES0 and RES1. The order of the turns and
where the sequence ends are the model's own (notes 1 and 20). -/
def Obligations.HostProtocolRunsTheCommand : Prop :=
  ∀ (c : AsmCmd) (s : State), s.turns = [] → s.status.busy = false →
    ∃ t, exec c.instr (issueCommand c s) = .next t ∧
      Sys2Proof.core.run (asmTurns c).length { s with turns := asmTurns c } =
        .next { t with hostSaw := statusWord t.status :: t.hostSaw } ∧
      Sys2Proof.core.run (asmTurns c ++ resultReads).length { s with turns := asmTurns c ++ resultReads } =
        .next { t with hostSaw := t.res1 :: t.res0 :: statusWord t.status :: t.hostSaw }

/-! ## The host port (10_state.md section 2) -/

/-- R22 to R24: a CMD write while idle latches the word, the operands and BUSY; an ARG write sets that ARG at any time;
a write of RES0, RES1, STATUS or any other offset has no effect. -/
def Obligations.HostWritesReachTheirRegisters : Prop :=
  ∀ (s : State) (off : Nat) (v : Word64) (ts : List Turn), s.turns = .host (.write off v) :: ts →
    (off = 0x00 → s.status.busy = false →
      step s = .next { s with turns := ts, lCmd := v.extractLsb' 0 32, lArg0 := s.arg0, lArg1 := s.arg1,
                              lArg2 := s.arg2, status := { s.status with busy := true } }) ∧
    (off = 0x08 → step s = .next { s with turns := ts, arg0 := v }) ∧
    (off = 0x10 → step s = .next { s with turns := ts, arg1 := v }) ∧
    (off = 0x18 → step s = .next { s with turns := ts, arg2 := v }) ∧
    (off ∉ [0x00, 0x08, 0x10, 0x18] → step s = .next { s with turns := ts })

/-- R342: a CMD write while BUSY = 1 changes nothing but OVR, which is set; and OVR stays 1 over every step that is not a
reset, as ANYERR does (R26). -/
def Obligations.DroppedCommandSetsStickyOverrun : Prop :=
  (∀ (s : State) (v : Word64) (ts : List Turn), s.turns = .host (.write 0x00 v) :: ts → s.status.busy = true →
    step s = .next { s with turns := ts, status := { s.status with ovr := true } }) ∧
  (∀ s t : State, s.turns.head? ≠ some .reset → step s = .next t →
    (s.status.ovr = true → t.status.ovr = true) ∧ (s.status.anyErr = true → t.status.anyErr = true))

/-- R22, R23, R26, R66: a host read returns its register (0 at any other offset), STATUS with its fields in place and its
reserved bits 0, and changes nothing of the core. -/
def Obligations.HostReadsReturnTheirRegisters : Prop :=
  ∀ (s : State) (off : Nat) (ts : List Turn), s.turns = .host (.read off) :: ts →
    ∃ v, step s = .next { s with turns := ts, hostSaw := v :: s.hostSaw } ∧
      (off = 0x00 → v = s.lCmd.setWidth 64) ∧ (off = 0x08 → v = s.arg0) ∧ (off = 0x10 → v = s.arg1) ∧
      (off = 0x18 → v = s.arg2) ∧ (off = 0x20 → v = s.res0) ∧ (off = 0x28 → v = s.res1) ∧
      (off = 0x30 →
        v.extractLsb' 0 4 = s.status.err ∧ v.extractLsb' 4 4 = 0 ∧ v.extractLsb' 8 8 = s.status.detail ∧
        v.getLsbD 16 = s.status.busy ∧ v.getLsbD 17 = s.status.ovr ∧ v.getLsbD 18 = s.status.anyErr ∧
        v.extractLsb' 19 5 = 0 ∧ v.extractLsb' 24 8 = s.status.lastOp ∧ v.extractLsb' 32 32 = 0) ∧
      (off ∉ [0x00, 0x08, 0x10, 0x18, 0x20, 0x28, 0x30] → v = 0)

/-- R330: a reset, at any time, abandons the pending command and sets every element the spec gives a reset value to it;
the capacities are constants. (The values of HUF_*, SF_* and AR_* are not stated: the spec leaves them unspecified.) -/
def Obligations.ResetSetsEveryElement : Prop :=
  ∀ (s : State) (ts : List Turn), s.turns = .reset :: ts →
    ∃ t, step s = .next t ∧ t.turns = ts ∧ t.hostSaw = s.hostSaw ∧ t.cap = s.cap ∧
      t.lCmd = 0 ∧ t.lArg0 = 0 ∧ t.lArg1 = 0 ∧ t.lArg2 = 0 ∧
      t.arg0 = 0 ∧ t.arg1 = 0 ∧ t.arg2 = 0 ∧ t.res0 = 0 ∧ t.res1 = 0 ∧
      statusWord t.status = 0 ∧ t.status.busy = false ∧ t.cmdCount = 0 ∧
      t.mem.bs = List.replicate s.cap.nbs [] ∧ t.mem.tx = List.replicate s.cap.ntb [] ∧
      t.staging.sym = Vector.replicate 256 0 ∧ t.staging.w = Vector.replicate 256 0 ∧
      t.table.valid = false ∧ t.table.n = 0 ∧ t.table.sum = 0 ∧
      t.table.sym = Vector.replicate 256 0 ∧ t.table.w = Vector.replicate 256 0 ∧
      t.eom = 0 ∧ validWord t.valid = 3 ∧
      t.lz77Window = 0 ∧ t.lz77Lookahead = 0 ∧ t.lzwBlocksize = 0 ∧ t.lzwDictsize = 0

/-! ## Errors and completion (60_exceptions.md) -/

/-- R300, R301: every error's kind and detail code. -/
def Obligations.ErrorCodesAreTheTables : Prop :=
  [Err.lengthMismatch, .sumTolerance, .tooMany, .noTable, .noEom, .noState, .symbolAbsent, .noCode, .formatLength,
    .codeRange, .candidates, .notAtRoot, .distance, .leafBit, .iInterval, .badOpcode, .badBuffer, .badRegister,
    .readOnly, .bsFull, .txFull, .index, .empty, .stageIndex].map (fun e => (errKind e, errDetail e)) =
  [(1, 0x01), (1, 0x02), (1, 0x03), (1, 0x04), (1, 0x05), (1, 0x06), (2, 0x10), (2, 0x11), (3, 0x20),
    (3, 0x21), (3, 0x22), (3, 0x23), (3, 0x24), (3, 0x25), (4, 0x30), (5, 0x40), (5, 0x41), (5, 0x42),
    (5, 0x43), (6, 0x50), (6, 0x51), (7, 0x60), (7, 0x61), (7, 0x62)]

/-- R313: every accepted command, legal or not, ends with one completion: ERR and DETAIL of OK or of one error, LASTOP,
ANYERR sticky, CMDCOUNT + 1 modulo 2^32, BUSY 0, OVR unchanged. When the sequencer moves is the model's own (note 1). -/
def Obligations.EveryAcceptedCommandCompletes : Prop :=
  ∀ (s : State) (ts : List Turn), s.turns = [] ∨ s.turns = .sequencer :: ts → s.status.busy = true →
    ∃ t, step s = .next t ∧
      (∃ r : Option Err,
        t.status.err = (match r with | none => 0 | some e => errKind e) ∧
        t.status.detail = (match r with | none => 0 | some e => errDetail e) ∧
        t.status.anyErr = (s.status.anyErr || r.isSome)) ∧
      t.status.lastOp = s.lCmd.extractLsb' 0 8 ∧ t.cmdCount.toNat = (s.cmdCount.toNat + 1) % 2 ^ 32 ∧
      t.status.busy = false ∧ t.status.ovr = s.status.ovr ∧ t.turns = s.turns.tail

/-- R15, R303: a command that raises an error changes nothing but STATUS and CMDCOUNT. -/
def Obligations.FailedCommandChangesNothingElse : Prop :=
  ∀ (i : Instr) (s t : State), exec i s = .next t → t.status.err ≠ 0 → ∃ e, CompletedWith e s t

/-- R83, R310: a field that names no buffer of the instance is reported before anything else, by every command, and only
such a field is. -/
def Obligations.MissingBufferIsReportedFirst : Prop :=
  ∀ (i : Instr) (s : State),
    (i.wellFormed s.cap = false → ∃ t, exec i s = .next t ∧ CompletedWith .badBuffer s t) ∧
    (i.wellFormed s.cap = true → ∀ t, exec i s = .next t → t.status.detail ≠ 0x41)

/-- R172, R174, R310: after the buffer fields come the table test, the sentinel test and the derived-state test, in this
order, by every command that has them. -/
def Obligations.TableSentinelAndStateAreTestedInOrder : Prop :=
  ∀ (i : Instr) (s : State), i.wellFormed s.cap = true → needsTable i = true →
    (s.table.valid = false → ∃ t, exec i s = .next t ∧ CompletedWith .noTable s t) ∧
    (s.table.valid = true → needsEom i = true → s.table.indexOf s.eom = none →
      ∃ t, exec i s = .next t ∧ CompletedWith .noEom s t) ∧
    (s.table.valid = true → (needsEom i = true → (s.table.indexOf s.eom).isSome = true) →
      needsState s.valid i = some false → ∃ t, exec i s = .next t ∧ CompletedWith .noState s t)

/-- R173: an encoder whose message holds a symbol outside the alphabet raises LOOKUP(SYMBOL_ABSENT), before any error of
its own algorithm (for SF before NO_CODE, for ARITH before I_INTERVAL, for all before BS_FULL). -/
def Obligations.AbsentSymbolIsReported : Prop :=
  ∀ (i : Instr) (s : State) (msg : Text) (c : Byte), i.wellFormed s.cap = true → s.table.valid = true →
    (needsEom i = true → (s.table.indexOf s.eom).isSome = true) →
    messageOf s i = some msg → c ∈ msg → s.table.indexOf c = none →
    ∃ t, exec i s = .next t ∧ CompletedWith .symbolAbsent s t

/-! ## Frames -/

/-- R66: the commands that read (with NOP and the averages) change at most RES0, RES1, STATUS and CMDCOUNT. -/
def Obligations.ReadCommandsChangeOnlyResults : Prop :=
  ∀ (i : Instr) (s t : State), isReadCommand i = true → exec i s = .next t →
    SameHostSide s t ∧ t.mem = s.mem ∧ SameTables s t ∧ SameConfig s t ∧ SameDerived s t ∧
    (t.status.err ≠ 0 → SameResults s t)

/-- R33: no command other than ST_BUILD writes the symbol table, and a successful ST_BUILD replaces it. -/
def Obligations.OnlyBuildWritesTheTable : Prop :=
  (∀ (i : Instr) (s t : State), i ≠ .stBuild → exec i s = .next t → t.table = s.table) ∧
  (∀ s t : State, exec .stBuild s = .next t → t.status.err = 0 →
    t.table = builtTable s.staging s.table s.lArg0.toNat)

/-- A command writes no buffer but its own destination: every other bit stream and every other text, and so every bit and
byte of them, reads as before. -/
def Obligations.CommandsWriteOnlyTheirDestination : Prop :=
  ∀ (i : Instr) (s t : State), exec i s = .next t →
    (∀ b : BufIdx, destStream i ≠ some b → t.mem.getBs b = s.mem.getBs b) ∧
    (∀ b : BufIdx, destText i ≠ some b → t.mem.getTx b = s.mem.getTx b)

/-- R43, R45 to R50, R102: which commands write which configuration register, derived state and VALID bit; every other
command leaves it. That ST_BUILD keeps the contents of HUF, SF and AR when it clears their VALID bits is the model's choice
(note 6). -/
def Obligations.CodecStateHasFewWriters : Prop :=
  ∀ (i : Instr) (s t : State), exec i s = .next t →
    (i ≠ .regWr → t.eom = s.eom) ∧
    (i ≠ .regWr → (∀ a b, i ≠ .encLz77 a b) →
      t.lz77Window = s.lz77Window ∧ t.lz77Lookahead = s.lz77Lookahead ∧ t.valid.lz77 = s.valid.lz77) ∧
    (i ≠ .regWr → (∀ a b, i ≠ .encLzw a b) → t.lzwBlocksize = s.lzwBlocksize ∧ t.valid.lzw = s.valid.lzw) ∧
    ((∀ a b, i ≠ .encLzw a b) → (∀ a b, i ≠ .decLzw a b) → t.lzwDictsize = s.lzwDictsize) ∧
    ((∀ a b, i ≠ .encHuf a b) → i ≠ .prepHuf →
      t.huf = s.huf ∧ (i ≠ .stBuild → t.valid.huf = s.valid.huf)) ∧
    ((∀ a b, i ≠ .encSf a b) → i ≠ .prepSf → t.sf = s.sf ∧ (i ≠ .stBuild → t.valid.sf = s.valid.sf)) ∧
    ((∀ a b, i ≠ .encArith a b) → i ≠ .prepArith →
      t.ar = s.ar ∧ (i ≠ .stBuild → t.valid.arith = s.valid.arith))

/-- R24, R25, R31: no command changes the operand registers, the latches or the capacities; only ST_STAGE changes the
staging arrays; only a command that names a result changes RES0 or RES1. -/
def Obligations.PortAndStagingFrame : Prop :=
  ∀ (i : Instr) (s t : State), exec i s = .next t →
    SameHostSide s t ∧ (i ≠ .stStage → t.staging = s.staging) ∧
    (isReadCommand i = false ∨ i = .nop → SameResults s t) ∧
    ((∃ a, i = .bsGet a ∨ i = .bsLen a ∨ i = .txGet a ∨ i = .txLen a) ∨ i ∈ [.regRd, .stSize, .stSymat, .stIndexof] →
      t.res1 = s.res1)

/-! ## Control and registers (40_control.md) -/

/-- R100, R101, R34, R40, R41, R43: NOP has no effect; REG_RD of each register number gives its value in RES0, and of a
reserved number raises ILLEGAL(BAD_REGISTER). CMDCOUNT is read before this command's own completion. -/
def Obligations.NopAndRegisterReadsComplete : Prop :=
  (∀ s : State, ∃ t, exec .nop s = .next t ∧ ResultsOnly s t ∧ SameResults s t) ∧
  (∀ (s : State) (v : Word64),
    (s.lArg0, v) ∈
      [(0x00, 0x4944453700000001), (0x01, s.eom.setWidth 64), (0x03, s.lz77Window.setWidth 64),
       (0x04, s.lz77Lookahead.setWidth 64), (0x05, s.lzwBlocksize.setWidth 64), (0x06, s.lzwDictsize),
       (0x08, if s.table.valid then 1 else 0), (0x09, s.table.n.setWidth 64), (0x0A, s.table.sum.setWidth 64),
       (0x0B, s.cmdCount.setWidth 64), (0x10, BitVec.ofNat 64 s.cap.nbs), (0x11, BitVec.ofNat 64 s.cap.ntb),
       (0x12, BitVec.ofNat 64 s.cap.bcap), (0x13, BitVec.ofNat 64 s.cap.tcap), (0x14, 256), (0x15, 53)] →
    ∃ t, exec .regRd s = .next t ∧ ResultsOnly s t ∧ t.res0 = v ∧ t.res1 = s.res1) ∧
  (∀ s : State, s.lArg0 = 0x02 →
    ∃ t, exec .regRd s = .next t ∧ ResultsOnly s t ∧ t.res1 = s.res1 ∧
      t.res0.getLsbD 0 = true ∧ t.res0.getLsbD 1 = true ∧ t.res0.getLsbD 2 = s.valid.huf ∧
      t.res0.getLsbD 3 = s.valid.sf ∧ t.res0.getLsbD 4 = s.valid.arith ∧ t.res0.getLsbD 5 = s.valid.lz77 ∧
      t.res0.getLsbD 6 = s.valid.lzw ∧ t.res0.extractLsb' 7 57 = 0) ∧
  (∀ s : State, s.lArg0 ∉ [0x00, 0x01, 0x02, 0x03, 0x04, 0x05, 0x06, 0x08, 0x09, 0x0A, 0x0B, 0x10, 0x11, 0x12, 0x13,
      0x14, 0x15] →
    ∃ t, exec .regRd s = .next t ∧ CompletedWith .badRegister s t)

/-- R102, R44: REG_WR keeps the register's bits of ARG1 and changes nothing else; a write of VALID reaches bits 5 and 6
only; a reserved number raises ILLEGAL(BAD_REGISTER), a read-only one ILLEGAL(READ_ONLY). -/
def Obligations.RegisterWritesKeepTheirBits : Prop :=
  ∀ s : State,
    (s.lArg0 = 0x01 → exec .regWr s = .next (complete none { s with eom := s.lArg1.extractLsb' 0 8 })) ∧
    (s.lArg0 = 0x02 → exec .regWr s = .next (complete none
      { s with valid := { s.valid with lz77 := s.lArg1.getLsbD 5, lzw := s.lArg1.getLsbD 6 } })) ∧
    (s.lArg0 = 0x03 → exec .regWr s = .next (complete none { s with lz77Window := s.lArg1.extractLsb' 0 32 })) ∧
    (s.lArg0 = 0x04 → exec .regWr s = .next (complete none { s with lz77Lookahead := s.lArg1.extractLsb' 0 32 })) ∧
    (s.lArg0 = 0x05 → exec .regWr s = .next (complete none { s with lzwBlocksize := s.lArg1.extractLsb' 0 6 })) ∧
    (s.lArg0 ∈ [0x00, 0x06, 0x08, 0x09, 0x0A, 0x0B, 0x10, 0x11, 0x12, 0x13, 0x14, 0x15] →
      ∃ t, exec .regWr s = .next t ∧ CompletedWith .readOnly s t) ∧
    (s.lArg0 ∉ [0x00, 0x01, 0x02, 0x03, 0x04, 0x05, 0x06, 0x08, 0x09, 0x0A, 0x0B, 0x10, 0x11, 0x12, 0x13, 0x14, 0x15] →
      ∃ t, exec .regWr s = .next t ∧ CompletedWith .badRegister s t)

/-! ## Symbol table (41_symbol_table.md) -/

/-- R110: ST_STAGE writes entry ARG0 of both staging arrays and no other; an index of 256 or more raises
RANGE(STAGE_INDEX). -/
def Obligations.StageWritesOneEntry : Prop :=
  ∀ s : State,
    (s.lArg0.toNat < 256 →
      ∃ t, exec .stStage s = .next t ∧ CompletedOk s t ∧ SameHostSide s t ∧ SameResults s t ∧ t.mem = s.mem ∧
        t.table = s.table ∧ SameConfig s t ∧ SameDerived s t ∧
        (∀ (j : Nat) (h : j < 256),
          t.staging.sym[j] = (if j = s.lArg0.toNat then s.lArg1.extractLsb' 0 8 else s.staging.sym[j]) ∧
          t.staging.w[j] = (if j = s.lArg0.toNat then s.lArg2.extractLsb' 0 32 else s.staging.w[j]))) ∧
    (256 ≤ s.lArg0.toNat → ∃ t, exec .stStage s = .next t ∧ CompletedWith .stageIndex s t)

/-- R111: ST_BUILD raises LENGTH_MISMATCH, TOO_MANY or SUM_TOLERANCE, in this order of test; else it commits the staged
entries, their exact sum and ST_VALID, keeps the entries beyond them, and clears VALID[2..4] and no other bit (R50). -/
def Obligations.BuildCommitsTheTableOrReportsTheFirstError : Prop :=
  ∀ (s : State) (S : Nat), S = ((s.staging.w.toList.take s.lArg0.toNat).map BitVec.toNat).sum →
    (s.lArg0 ≠ s.lArg1 → ∃ t, exec .stBuild s = .next t ∧ CompletedWith .lengthMismatch s t) ∧
    (s.lArg0 = s.lArg1 → 256 < s.lArg0.toNat → ∃ t, exec .stBuild s = .next t ∧ CompletedWith .tooMany s t) ∧
    (s.lArg0 = s.lArg1 → s.lArg0.toNat ≤ 256 → 2 ^ 31 < 100 * ((S : Int) - 2 ^ 31).natAbs →
      ∃ t, exec .stBuild s = .next t ∧ CompletedWith .sumTolerance s t) ∧
    (s.lArg0 = s.lArg1 → s.lArg0.toNat ≤ 256 → 100 * ((S : Int) - 2 ^ 31).natAbs ≤ 2 ^ 31 →
      ∃ t, exec .stBuild s = .next t ∧ CompletedOk s t ∧ SameHostSide s t ∧ SameResults s t ∧ t.mem = s.mem ∧
        t.staging = s.staging ∧ SameConfig s t ∧
        t.valid = { s.valid with huf := false, sf := false, arith := false } ∧
        t.table.valid = true ∧ t.table.n.toNat = s.lArg0.toNat ∧ t.table.sum.toNat = S ∧
        (∀ (j : Nat) (h : j < 256),
          t.table.sym[j] = (if j < s.lArg0.toNat then s.staging.sym[j] else s.table.sym[j]) ∧
          t.table.w[j] = (if j < s.lArg0.toNat then s.staging.w[j] else s.table.w[j])))

/-- R112, R113, R115: ST_SIZE, ST_SYMAT and ST_PROBAT raise CONFIG(NO_TABLE) with no table built; with one, they return its
entries, and an index at or beyond ST_N raises RANGE(INDEX). -/
def Obligations.TableReadsReturnItsEntries : Prop :=
  ∀ s : State,
    (s.table.valid = false →
      (∃ t, exec .stSize s = .next t ∧ CompletedWith .noTable s t) ∧
      (∃ t, exec .stSymat s = .next t ∧ CompletedWith .noTable s t) ∧
      (∃ t, exec .stProbat s = .next t ∧ CompletedWith .noTable s t)) ∧
    (s.table.valid = true →
      ∃ t, exec .stSize s = .next t ∧ ResultsOnly s t ∧ t.res0 = s.table.n.setWidth 64 ∧ t.res1 = s.res1) ∧
    (∀ h : s.lArg0.toNat < 256, s.table.valid = true → s.lArg0.toNat < s.table.n.toNat →
      (∃ t, exec .stSymat s = .next t ∧ ResultsOnly s t ∧ t.res0 = (s.table.sym[s.lArg0.toNat]).setWidth 64 ∧
        t.res1 = s.res1) ∧
      (∃ t, exec .stProbat s = .next t ∧ ResultsOnly s t ∧ t.res0 = (s.table.w[s.lArg0.toNat]).setWidth 64 ∧
        t.res1 = s.table.sum.setWidth 64)) ∧
    (s.table.valid = true → s.table.n.toNat ≤ s.lArg0.toNat →
      (∃ t, exec .stSymat s = .next t ∧ CompletedWith .index s t) ∧
      (∃ t, exec .stProbat s = .next t ∧ CompletedWith .index s t))

/-- R114, R16: ST_INDEXOF raises CONFIG(NO_TABLE) with no table built; with one, it returns the least index below ST_N that
holds ARG0[7:0], and raises LOOKUP(SYMBOL_ABSENT) when there is none. -/
def Obligations.IndexOfReturnsTheLeastIndex : Prop :=
  ∀ s : State, s.table.n.toNat ≤ 256 →
    (s.table.valid = false → ∃ t, exec .stIndexof s = .next t ∧ CompletedWith .noTable s t) ∧
    (∀ (k : Nat) (h : k < 256), s.table.valid = true → k < s.table.n.toNat →
      s.table.sym[k] = s.lArg0.extractLsb' 0 8 →
      (∀ (j : Nat) (hj : j < k), s.table.sym[j]'(Nat.lt_trans hj h) ≠ s.lArg0.extractLsb' 0 8) →
      ∃ t, exec .stIndexof s = .next t ∧ ResultsOnly s t ∧ t.res0 = BitVec.ofNat 64 k ∧ t.res1 = s.res1) ∧
    (s.table.valid = true →
      (∀ (j : Nat) (h : j < 256), j < s.table.n.toNat → s.table.sym[j] ≠ s.lArg0.extractLsb' 0 8) →
      ∃ t, exec .stIndexof s = .next t ∧ CompletedWith .symbolAbsent s t)

/-! ## Bit streams (42_bitstream.md) -/

/-- R131 to R135, R61: the typed appends add their bits, most significant first, at the end, or raise CAPACITY(BS_FULL) and
change nothing. -/
def Obligations.TypedAppendsAreBigEndian : Prop :=
  ∀ (s : State) (a : BufIdx) (i : Instr) (new : BitSeq), Memory.wf s.cap s.mem → a.toNat < s.cap.nbs →
    (i, new) ∈
      [(Instr.bsAppb a, [s.lArg0.getLsbD 0]),
       (.bsAppu8 a, (List.range 8).map (fun k => s.lArg0.getLsbD (7 - k))),
       (.bsAppu16 a, (List.range 16).map (fun k => s.lArg0.getLsbD (15 - k))),
       (.bsAppu32 a, (List.range 32).map (fun k => s.lArg0.getLsbD (31 - k))),
       (.bsAppu64 a, (List.range 64).map (fun k => s.lArg0.getLsbD (63 - k)))] →
    ((s.mem.getBs a).length + new.length ≤ s.cap.bcap →
      ∃ t, exec i s = .next t ∧ OneStreamWritten a s t ∧ t.mem.getBs a = s.mem.getBs a ++ new) ∧
    (s.cap.bcap < (s.mem.getBs a).length + new.length → ∃ t, exec i s = .next t ∧ CompletedWith .bsFull s t)

/-- R136, R137, R68: BS_CAT appends the source stream as it stood at the start (so BS_CAT A, A doubles the buffer), BS_APPT
the bytes of a text, 8 bits each; both raise CAPACITY(BS_FULL) when it does not fit. -/
def Obligations.ConcatenationsAppendTheSource : Prop :=
  ∀ (s : State) (a b : BufIdx), Memory.wf s.cap s.mem → a.toNat < s.cap.nbs →
    (b.toNat < s.cap.nbs →
      ((s.mem.getBs a).length + (s.mem.getBs b).length ≤ s.cap.bcap →
        ∃ t, exec (.bsCat a b) s = .next t ∧ OneStreamWritten a s t ∧
          t.mem.getBs a = s.mem.getBs a ++ s.mem.getBs b) ∧
      (s.cap.bcap < (s.mem.getBs a).length + (s.mem.getBs b).length →
        ∃ t, exec (.bsCat a b) s = .next t ∧ CompletedWith .bsFull s t)) ∧
    (b.toNat < s.cap.ntb →
      ((s.mem.getBs a).length + 8 * (s.mem.getTx b).length ≤ s.cap.bcap →
        ∃ t, exec (.bsAppt a b) s = .next t ∧ OneStreamWritten a s t ∧
          t.mem.getBs a = s.mem.getBs a ++
            (s.mem.getTx b).flatMap (fun c => (List.range 8).map (fun k => c.getLsbD (7 - k)))) ∧
      (s.cap.bcap < (s.mem.getBs a).length + 8 * (s.mem.getTx b).length →
        ∃ t, exec (.bsAppt a b) s = .next t ∧ CompletedWith .bsFull s t))

/-- R130, R138 to R141: BS_CLEAR empties the buffer, BS_POP removes its last bit or raises RANGE(EMPTY), BS_SET writes and
BS_GET returns one bit in range or raises RANGE(INDEX), BS_LEN returns the length. -/
def Obligations.StreamEditsAndReadsComplete : Prop :=
  ∀ (s : State) (a : BufIdx), Memory.wf s.cap s.mem → s.cap.ok → a.toNat < s.cap.nbs →
    (∃ t, exec (.bsClear a) s = .next t ∧ OneStreamWritten a s t ∧ t.mem.getBs a = []) ∧
    (∀ (x : BitSeq) (b : Bool), s.mem.getBs a = x ++ [b] →
      ∃ t, exec (.bsPop a) s = .next t ∧ OneStreamWritten a s t ∧ t.mem.getBs a = x) ∧
    (s.mem.getBs a = [] → ∃ t, exec (.bsPop a) s = .next t ∧ CompletedWith .empty s t) ∧
    (s.lArg0.toNat < (s.mem.getBs a).length →
      ∃ t, exec (.bsSet a) s = .next t ∧ OneStreamWritten a s t ∧
        (t.mem.getBs a).length = (s.mem.getBs a).length ∧
        ∀ j : Nat, j < (s.mem.getBs a).length →
          (t.mem.getBs a)[j]? = if j = s.lArg0.toNat then some (s.lArg1.getLsbD 0) else (s.mem.getBs a)[j]?) ∧
    (∀ b : Bool, (s.mem.getBs a)[s.lArg0.toNat]? = some b →
      ∃ t, exec (.bsGet a) s = .next t ∧ ResultsOnly s t ∧ t.res0.toNat = b.toNat ∧ t.res1 = s.res1) ∧
    ((s.mem.getBs a).length ≤ s.lArg0.toNat →
      (∃ t, exec (.bsGet a) s = .next t ∧ CompletedWith .index s t) ∧
      (∃ t, exec (.bsSet a) s = .next t ∧ CompletedWith .index s t)) ∧
    (∃ t, exec (.bsLen a) s = .next t ∧ ResultsOnly s t ∧ t.res0.toNat = (s.mem.getBs a).length ∧ t.res1 = s.res1)

/-- R142: BS_RENDER replaces the text by one character '0' or '1' per bit, or raises CAPACITY(TX_FULL). -/
def Obligations.RenderWritesOneCharacterPerBit : Prop :=
  ∀ (s : State) (a b : BufIdx), Memory.wf s.cap s.mem → a.toNat < s.cap.ntb → b.toNat < s.cap.nbs →
    ((s.mem.getBs b).length ≤ s.cap.tcap →
      ∃ t, exec (.bsRender a b) s = .next t ∧ OneTextWritten a s t ∧
        (t.mem.getTx a).map BitVec.toNat = (s.mem.getBs b).map (fun x => 0x30 + x.toNat)) ∧
    (s.cap.tcap < (s.mem.getBs b).length → ∃ t, exec (.bsRender a b) s = .next t ∧ CompletedWith .txFull s t)

/-- R143: the commands of a container's leaf elements, in depth-first order, append its natural encoding. The stream
leaves are other buffers than the destination, which grows on the way. -/
def Obligations.NaturalEncodingIsAppended : Prop :=
  ∀ (s : State) (a : BufIdx) (x : NatVal), Memory.wf s.cap s.mem → s.status.busy = false → a.toNat < s.cap.nbs →
    (∀ b ∈ natStreams x, b ≠ a ∧ b.toNat < s.cap.nbs) → (∀ t ∈ natTexts x, t.toNat < s.cap.ntb) →
    (s.mem.getBs a).length + (natEnc s.mem x).length ≤ s.cap.bcap →
    ∃ t, runCommands (natCommands a x) s = .next t ∧ t.mem.getBs a = s.mem.getBs a ++ natEnc s.mem x ∧
      SameStreams [a] s t ∧ t.mem.tx = s.mem.tx ∧ t.status.anyErr = s.status.anyErr

/-! ## Texts (43_text.md) -/

/-- R160 to R164: the text commands' results, with RANGE(INDEX) and CAPACITY(TX_FULL) where they raise them. -/
def Obligations.TextCommandsComplete : Prop :=
  ∀ (s : State) (a : BufIdx), Memory.wf s.cap s.mem → s.cap.ok → a.toNat < s.cap.ntb →
    (∃ t, exec (.txClear a) s = .next t ∧ OneTextWritten a s t ∧ t.mem.getTx a = []) ∧
    ((s.mem.getTx a).length < s.cap.tcap →
      ∃ t, exec (.txPush a) s = .next t ∧ OneTextWritten a s t ∧
        t.mem.getTx a = s.mem.getTx a ++ [s.lArg0.extractLsb' 0 8]) ∧
    ((s.mem.getTx a).length = s.cap.tcap → ∃ t, exec (.txPush a) s = .next t ∧ CompletedWith .txFull s t) ∧
    (∀ c : Byte, (s.mem.getTx a)[s.lArg0.toNat]? = some c →
      ∃ t, exec (.txGet a) s = .next t ∧ ResultsOnly s t ∧ t.res0 = c.setWidth 64 ∧ t.res1 = s.res1) ∧
    (s.lArg0.toNat < (s.mem.getTx a).length →
      ∃ t, exec (.txSet a) s = .next t ∧ OneTextWritten a s t ∧
        (t.mem.getTx a).length = (s.mem.getTx a).length ∧
        ∀ j : Nat, j < (s.mem.getTx a).length →
          (t.mem.getTx a)[j]? = if j = s.lArg0.toNat then some (s.lArg1.extractLsb' 0 8) else (s.mem.getTx a)[j]?) ∧
    ((s.mem.getTx a).length ≤ s.lArg0.toNat →
      (∃ t, exec (.txGet a) s = .next t ∧ CompletedWith .index s t) ∧
      (∃ t, exec (.txSet a) s = .next t ∧ CompletedWith .index s t)) ∧
    (∃ t, exec (.txLen a) s = .next t ∧ ResultsOnly s t ∧ t.res0.toNat = (s.mem.getTx a).length ∧ t.res1 = s.res1)

/-! ## Codecs: encoders, builders, averages -/

/-- R170, R175, R177, R178, R179, R181: ENC.FIXED and ENC.BLOCK replace BS[A] by their output or raise CAPACITY(BS_FULL);
AVG.FIXED gives 8/1 and AVG.BLOCK W/1. -/
def Obligations.FixedAndBlockEncodersComplete : Prop :=
  ∀ (s : State) (a b : BufIdx) (idx : List Nat), Memory.wf s.cap s.mem → a.toNat < s.cap.nbs → b.toNat < s.cap.ntb →
    (8 * (s.mem.getTx b).length ≤ s.cap.bcap →
      ∃ t, exec (.encFixed a b) s = .next t ∧ OneStreamWritten a s t ∧
        t.mem.getBs a = (s.mem.getTx b).flatMap (fun c => uBits c.toNat 8)) ∧
    (s.cap.bcap < 8 * (s.mem.getTx b).length → ∃ t, exec (.encFixed a b) s = .next t ∧ CompletedWith .bsFull s t) ∧
    (s.table.valid = true → s.table.lookupAll (s.mem.getTx b) = some idx →
      ((s.mem.getTx b).length * max 1 (clog2 s.table.n.toNat) ≤ s.cap.bcap →
        ∃ t, exec (.encBlock a b) s = .next t ∧ OneStreamWritten a s t ∧
          t.mem.getBs a = idx.flatMap (fun i => uBits i (max 1 (clog2 s.table.n.toNat)))) ∧
      (s.cap.bcap < (s.mem.getTx b).length * max 1 (clog2 s.table.n.toNat) →
        ∃ t, exec (.encBlock a b) s = .next t ∧ CompletedWith .bsFull s t)) ∧
    (∃ t, exec .avgFixed s = .next t ∧ ResultsOnly s t ∧ t.res0 = 8 ∧ t.res1 = 1) ∧
    (s.table.valid = true →
      ∃ t, exec .avgBlock s = .next t ∧ ResultsOnly s t ∧ t.res0.toNat = max 1 (clog2 s.table.n.toNat) ∧ t.res1 = 1)

/-- R200, R202, R203, R170: ENC.HUF writes the codes of the text and commits the tree with VALID[2], or raises
CAPACITY(BS_FULL) when they do not fit; PREP.HUF commits the same
tree; AVG.HUF returns the weighted code length over ST_SUM. -/
def Obligations.HuffmanCommandsComplete : Prop :=
  ∀ (s : State) (a b : BufIdx) (idx : List Nat), s.Inv → s.table.valid = true →
    (a.toNat < s.cap.nbs → b.toNat < s.cap.ntb → s.table.lookupAll (s.mem.getTx b) = some idx →
      ((idx.flatMap (fun i => (hufCodes s.table.weights).getD i [])).length ≤ s.cap.bcap →
        ∃ t, exec (.encHuf a b) s = .next t ∧ CompletedOk s t ∧
          t.mem.getBs a = idx.flatMap (fun i => (hufCodes s.table.weights).getD i []) ∧
          SameStreams [a] s t ∧ t.mem.tx = s.mem.tx ∧ SameTables s t ∧ SameConfig s t ∧ SameResults s t ∧
          t.valid = { s.valid with huf := true } ∧ t.huf = hufBuild s.table ∧ t.sf = s.sf ∧ t.ar = s.ar) ∧
      (s.cap.bcap < (idx.flatMap (fun i => (hufCodes s.table.weights).getD i [])).length →
        ∃ t, exec (.encHuf a b) s = .next t ∧ CompletedWith .bsFull s t)) ∧
    (∃ t, exec .prepHuf s = .next t ∧ CompletedOk s t ∧ t.mem = s.mem ∧ SameTables s t ∧ SameConfig s t ∧
      SameResults s t ∧ t.valid = { s.valid with huf := true } ∧ t.huf = hufBuild s.table ∧ t.sf = s.sf ∧ t.ar = s.ar) ∧
    (s.valid.huf = true →
      ∃ t, exec .avgHuf s = .next t ∧ ResultsOnly s t ∧
        t.res0.toNat = ((List.range s.table.n.toNat).map (fun i =>
          s.table.weights.getD i 0 * ((hufCodes s.table.weights).getD i []).length)).sum ∧
        t.res1 = s.table.sum.setWidth 64)

/-- R220, R222, R223, R170: the Shannon-Fano counterparts; a looked-up symbol of weight 0 raises LOOKUP(NO_CODE) (R216),
which comes before CAPACITY(BS_FULL). -/
def Obligations.ShannonFanoCommandsComplete : Prop :=
  ∀ (s : State) (a b : BufIdx) (idx : List Nat), s.Inv → s.table.valid = true →
    (a.toNat < s.cap.nbs → b.toNat < s.cap.ntb → s.table.lookupAll (s.mem.getTx b) = some idx →
      ((∀ i ∈ idx, 0 < s.table.weights.getD i 0) →
        (idx.flatMap (sfBuild s.table).codeword).length ≤ s.cap.bcap →
        ∃ t, exec (.encSf a b) s = .next t ∧ CompletedOk s t ∧
          t.mem.getBs a = idx.flatMap (sfBuild s.table).codeword ∧
          SameStreams [a] s t ∧ t.mem.tx = s.mem.tx ∧ SameTables s t ∧ SameConfig s t ∧ SameResults s t ∧
          t.valid = { s.valid with sf := true } ∧ t.sf = sfBuild s.table ∧ t.huf = s.huf ∧ t.ar = s.ar) ∧
      ((∀ i ∈ idx, 0 < s.table.weights.getD i 0) →
        s.cap.bcap < (idx.flatMap (sfBuild s.table).codeword).length →
        ∃ t, exec (.encSf a b) s = .next t ∧ CompletedWith .bsFull s t) ∧
      ((∃ i ∈ idx, s.table.weights.getD i 0 = 0) →
        ∃ t, exec (.encSf a b) s = .next t ∧ CompletedWith .noCode s t)) ∧
    (∃ t, exec .prepSf s = .next t ∧ CompletedOk s t ∧ t.mem = s.mem ∧ SameTables s t ∧ SameConfig s t ∧
      SameResults s t ∧ t.valid = { s.valid with sf := true } ∧ t.sf = sfBuild s.table ∧ t.huf = s.huf ∧ t.ar = s.ar) ∧
    (s.valid.sf = true →
      ∃ t, exec .avgSf s = .next t ∧ ResultsOnly s t ∧
        t.res0.toNat = ((List.range s.table.n.toNat).map (fun i =>
          s.table.weights.getD i 0 * ((sfBuild s.table).lenAt i))).sum ∧
        t.res1 = s.table.sum.setWidth 64)

/-- R245, R247, R235, R238: ENC.ARITH of a message whose symbols all have a weight writes the trimmed range-coder output and
commits the cumulative table with VALID[4]; a message with a weight-0 symbol raises INTERNAL(I_INTERVAL). PREP.ARITH commits
the same table, without the sentinel test. -/
def Obligations.ArithmeticCommandsComplete : Prop :=
  ∀ (s : State) (a b : BufIdx) (idx : List Nat), s.Inv → s.table.valid = true →
    (a.toNat < s.cap.nbs → b.toNat < s.cap.ntb → (s.table.indexOf s.eom).isSome = true →
      s.table.lookupAll ((s.mem.getTx b).takeWhile (fun c => c != s.eom) ++ [s.eom]) = some idx →
      ((∀ i ∈ idx, 0 < s.table.weights.getD i 0) →
        ∃ out, arEncode (arBuild s.table) s.table.total idx = .ok out ∧
          (out.length ≤ s.cap.bcap →
            ∃ t, exec (.encArith a b) s = .next t ∧ CompletedOk s t ∧ t.mem.getBs a = out ∧
              SameStreams [a] s t ∧ t.mem.tx = s.mem.tx ∧ SameTables s t ∧ SameConfig s t ∧ SameResults s t ∧
              t.valid = { s.valid with arith := true } ∧ t.ar = arBuild s.table ∧ t.huf = s.huf ∧ t.sf = s.sf) ∧
          (s.cap.bcap < out.length → ∃ t, exec (.encArith a b) s = .next t ∧ CompletedWith .bsFull s t)) ∧
      ((∃ i ∈ idx, s.table.weights.getD i 0 = 0) →
        ∃ t, exec (.encArith a b) s = .next t ∧ CompletedWith .iInterval s t)) ∧
    (∃ t, exec .prepArith s = .next t ∧ CompletedOk s t ∧ t.mem = s.mem ∧ SameTables s t ∧ SameConfig s t ∧
      SameResults s t ∧ t.valid = { s.valid with arith := true } ∧ t.ar = arBuild s.table ∧ t.huf = s.huf ∧
      t.sf = s.sf ∧ t.ar.n.toNat = s.table.n.toNat ∧
      ∀ k : Nat, k ≤ s.table.n.toNat → t.ar.cumAt k = (s.table.weights.take k).sum)

/-- R270, R290, R170: ENC.LZ77 and ENC.LZW write their output and the registers their decoders need, or raise
CAPACITY(BS_FULL) when it does not fit. -/
def Obligations.DictionaryEncodersComplete : Prop :=
  ∀ (s : State) (a b : BufIdx) (idx : List Nat), s.Inv → s.table.valid = true → a.toNat < s.cap.nbs →
    b.toNat < s.cap.ntb →
    (s.table.lookupAll (s.mem.getTx b) = some idx → s.cap.bcap < (lzEncode s.table (s.mem.getTx b) idx).length →
      ∃ t, exec (.encLz77 a b) s = .next t ∧ CompletedWith .bsFull s t) ∧
    ((s.table.indexOf s.eom).isSome = true →
      s.table.lookupAll ((s.mem.getTx b).takeWhile (fun c => c != s.eom)) = some idx →
      s.cap.bcap < (lzwEncode s.table ((s.mem.getTx b).takeWhile (fun c => c != s.eom))).1.length →
      ∃ t, exec (.encLzw a b) s = .next t ∧ CompletedWith .bsFull s t) ∧
    (s.table.lookupAll (s.mem.getTx b) = some idx → (lzEncode s.table (s.mem.getTx b) idx).length ≤ s.cap.bcap →
      ∃ t, exec (.encLz77 a b) s = .next t ∧ CompletedOk s t ∧ t.mem.getBs a = lzEncode s.table (s.mem.getTx b) idx ∧
        SameStreams [a] s t ∧ t.mem.tx = s.mem.tx ∧ SameTables s t ∧ SameResults s t ∧
        t.lz77Window.toNat = lzWindow (s.mem.getTx b).length ∧
        t.lz77Lookahead.toNat = lzLookahead (s.mem.getTx b).length ∧
        t.valid = { s.valid with lz77 := true } ∧ t.eom = s.eom ∧
        t.lzwBlocksize = s.lzwBlocksize ∧ t.lzwDictsize = s.lzwDictsize) ∧
    ((s.table.indexOf s.eom).isSome = true →
      s.table.lookupAll ((s.mem.getTx b).takeWhile (fun c => c != s.eom)) = some idx →
      (lzwEncode s.table ((s.mem.getTx b).takeWhile (fun c => c != s.eom))).1.length ≤ s.cap.bcap →
      ∃ t, exec (.encLzw a b) s = .next t ∧ CompletedOk s t ∧
        t.mem.getBs a = (lzwEncode s.table ((s.mem.getTx b).takeWhile (fun c => c != s.eom))).1 ∧
        SameStreams [a] s t ∧ t.mem.tx = s.mem.tx ∧ SameTables s t ∧ SameResults s t ∧
        t.lzwBlocksize.toNat = clog2 t.lzwDictsize.toNat ∧
        t.lzwDictsize.toNat = (lzwCodes s.table ((s.mem.getTx b).takeWhile (fun c => c != s.eom))).2 ∧
        t.valid = { s.valid with lzw := true } ∧ t.eom = s.eom ∧
        t.lz77Window = s.lz77Window ∧ t.lz77Lookahead = s.lz77Lookahead)

/-- R171, R176, R178, R180: DEC.FIXED and DEC.BLOCK reject a stream that is no whole number of groups with FORMAT(LENGTH); else they
give each group's symbol in stream order, or raise FORMAT(CODE_RANGE) at an index beyond the table (BLOCK) or
CAPACITY(TX_FULL), whichever comes first in the stream. -/
def Obligations.FixedAndBlockDecodersComplete : Prop :=
  ∀ (s : State) (a b : BufIdx) (W : Nat), Memory.wf s.cap s.mem → a.toNat < s.cap.ntb → b.toNat < s.cap.nbs →
    W = max 1 (clog2 s.table.n.toNat) →
    ((s.mem.getBs b).length % 8 ≠ 0 → ∃ t, exec (.decFixed a b) s = .next t ∧ CompletedWith .formatLength s t) ∧
    (∀ x : Text, s.mem.getBs b = x.flatMap (fun c => uBits c.toNat 8) →
      (x.length ≤ s.cap.tcap → ∃ t, exec (.decFixed a b) s = .next t ∧ OneTextWritten a s t ∧ t.mem.getTx a = x) ∧
      (s.cap.tcap < x.length → ∃ t, exec (.decFixed a b) s = .next t ∧ CompletedWith .txFull s t)) ∧
    (s.table.valid = true →
      ((s.mem.getBs b).length % W ≠ 0 → ∃ t, exec (.decBlock a b) s = .next t ∧ CompletedWith .formatLength s t) ∧
      (∀ idx : List Nat, (∀ i ∈ idx, i < s.table.n.toNat) → s.mem.getBs b = idx.flatMap (fun i => uBits i W) →
        idx.length ≤ s.cap.tcap →
        ∃ t, exec (.decBlock a b) s = .next t ∧ OneTextWritten a s t ∧ t.mem.getTx a = idx.map s.table.symAt) ∧
      (∀ idx rest : List Nat, (∀ i ∈ idx, i < s.table.n.toNat) → s.cap.tcap < idx.length →
        s.mem.getBs b = (idx ++ rest).flatMap (fun i => uBits i W) →
        ∃ t, exec (.decBlock a b) s = .next t ∧ CompletedWith .txFull s t) ∧
      (∀ (idx rest : List Nat) (k : Nat), (∀ i ∈ idx, i < s.table.n.toNat) → idx.length ≤ s.cap.tcap →
        s.table.n.toNat ≤ k → k < 2 ^ W → s.mem.getBs b = (idx ++ k :: rest).flatMap (fun i => uBits i W) →
        ∃ t, exec (.decBlock a b) s = .next t ∧ CompletedWith .codeRange s t))

/-- R171, R176, R180, R201, R221, R246, R271, R291: a decoder whose tests pass and whose decode function answers an output
replaces TX[A] by it; only DEC.LZW changes a register, LZW_DICTSIZE; when the function answers an error, the command
raises it. (Which stream raises which error is stated per codec, beside the round trips.) -/
def Obligations.DecodersCommitTheirOutput : Prop :=
  ∀ (s : State) (i : Instr) (a : BufIdx) (r : Except Err (Text × Word64)), Memory.wf s.cap s.mem →
    decodedBy s i = some (a, r) → i.wellFormed s.cap = true → (needsTable i = true → s.table.valid = true) →
    (needsEom i = true → (s.table.indexOf s.eom).isSome = true) → needsState s.valid i ≠ some false →
    (∀ x d, r = .ok (x, d) →
      ∃ t, exec i s = .next t ∧ CompletedOk s t ∧ t.mem.getTx a = x ∧ t.lzwDictsize = d ∧
        SameTexts [a] s t ∧ t.mem.bs = s.mem.bs ∧ SameTables s t ∧ SameDerived s t ∧ SameResults s t ∧
        t.eom = s.eom ∧ t.lz77Window = s.lz77Window ∧ t.lz77Lookahead = s.lz77Lookahead ∧
        t.lzwBlocksize = s.lzwBlocksize) ∧
    (∀ e, r = .error e → ∃ t, exec i s = .next t ∧ CompletedWith e s t)

/-! ## Codecs: decoding inverts encoding -/

/-- FIXED and BLOCK: a decode of what an encode wrote gives the text back. -/
def Obligations.FixedAndBlockRoundTrip : Prop :=
  ∀ (s t : State) (a b d : BufIdx), s.Inv → d.toNat < s.cap.ntb → t.status.err = 0 →
    (exec (.encFixed a b) s = .next t →
      ∃ u, exec (.decFixed d a) t = .next u ∧ CompletedOk t u ∧ u.mem.getTx d = s.mem.getTx b) ∧
    (exec (.encBlock a b) s = .next t →
      ∃ u, exec (.decBlock d a) t = .next u ∧ CompletedOk t u ∧ u.mem.getTx d = s.mem.getTx b)

/-- HUF: a tree-walk decode of what an encode wrote gives the text back. R201, R171, for every stream with a tree present:
codes of symbols give the symbols; with one symbol a 1 raises LEAF_BIT; a last code cut short raises NOT_AT_ROOT; more
symbols than TCAP raise TX_FULL, whatever follows. -/
def Obligations.HuffmanRoundTripAndErrors : Prop :=
  ∀ s : State, s.Inv →
    (∀ (t : State) (a b d : BufIdx), d.toNat < s.cap.ntb → exec (.encHuf a b) s = .next t → t.status.err = 0 →
      ∃ u, exec (.decHuf d a) t = .next u ∧ CompletedOk t u ∧ u.mem.getTx d = s.mem.getTx b) ∧
    (∀ (a b : BufIdx) (k : Nat) (rest : BitSeq), a.toNat < s.cap.ntb → b.toNat < s.cap.nbs → s.valid.huf = true →
      s.table.size = 1 →
      (s.mem.getBs b = List.replicate k false → k ≤ s.cap.tcap →
        ∃ t, exec (.decHuf a b) s = .next t ∧ OneTextWritten a s t ∧ t.mem.getTx a = List.replicate k (s.table.symAt 0)) ∧
      (s.mem.getBs b = List.replicate k false ++ true :: rest → k ≤ s.cap.tcap →
        ∃ t, exec (.decHuf a b) s = .next t ∧ CompletedWith .leafBit s t) ∧
      (s.mem.getBs b = List.replicate k false ++ rest → s.cap.tcap < k →
        ∃ t, exec (.decHuf a b) s = .next t ∧ CompletedWith .txFull s t)) ∧
    (∀ (a b : BufIdx) (idx : List Nat) (tail : BitSeq), a.toNat < s.cap.ntb → b.toNat < s.cap.nbs → s.valid.huf = true →
      2 ≤ s.table.size → (∀ i ∈ idx, i < s.table.size) →
      s.mem.getBs b = idx.flatMap (fun i => (hufCodes s.table.weights).getD i []) ++ tail →
      (tail = [] → idx.length ≤ s.cap.tcap →
        ∃ t, exec (.decHuf a b) s = .next t ∧ OneTextWritten a s t ∧ t.mem.getTx a = idx.map s.table.symAt) ∧
      (tail ≠ [] → idx.length ≤ s.cap.tcap →
        (∃ i, i < s.table.size ∧ tail <+: (hufCodes s.table.weights).getD i [] ∧
          tail ≠ (hufCodes s.table.weights).getD i []) →
        ∃ t, exec (.decHuf a b) s = .next t ∧ CompletedWith .notAtRoot s t) ∧
      (s.cap.tcap < idx.length → ∃ t, exec (.decHuf a b) s = .next t ∧ CompletedWith .txFull s t))

/-- SF: a sequential-elimination decode of what an encode wrote gives the text back. R221, R171, for every stream with a
code present: codewords give their symbols; a last codeword cut short raises LENGTH; bits that no codeword agrees with raise
CANDIDATES; more symbols than TCAP raise TX_FULL, whatever follows. -/
def Obligations.ShannonFanoRoundTripAndErrors : Prop :=
  ∀ s : State, s.Inv →
    (∀ (t : State) (a b d : BufIdx), d.toNat < s.cap.ntb → exec (.encSf a b) s = .next t → t.status.err = 0 →
      ∃ u, exec (.decSf d a) t = .next u ∧ CompletedOk t u ∧ u.mem.getTx d = s.mem.getTx b) ∧
    (∀ (a b : BufIdx) (idx : List Nat) (tail : BitSeq), a.toNat < s.cap.ntb → b.toNat < s.cap.nbs → s.valid.sf = true →
      (∀ i ∈ idx, i < s.table.size ∧ 0 < s.table.weightAt i) →
      s.mem.getBs b = idx.flatMap (sfBuild s.table).codeword ++ tail →
      (tail = [] → idx.length ≤ s.cap.tcap →
        ∃ t, exec (.decSf a b) s = .next t ∧ OneTextWritten a s t ∧ t.mem.getTx a = idx.map s.table.symAt) ∧
      (tail ≠ [] → idx.length ≤ s.cap.tcap →
        (∃ i, i < s.table.size ∧ 0 < s.table.weightAt i ∧ tail <+: (sfBuild s.table).codeword i ∧
          tail ≠ (sfBuild s.table).codeword i) →
        ∃ t, exec (.decSf a b) s = .next t ∧ CompletedWith .formatLength s t) ∧
      (idx.length ≤ s.cap.tcap →
        (∀ i, i < s.table.size → 0 < s.table.weightAt i →
          ¬ (sfBuild s.table).codeword i <+: tail ∧ ¬ tail <+: (sfBuild s.table).codeword i) →
        ∃ t, exec (.decSf a b) s = .next t ∧ CompletedWith .candidates s t) ∧
      (s.cap.tcap < idx.length → ∃ t, exec (.decSf a b) s = .next t ∧ CompletedWith .txFull s t))

/-- ARITH: a range decode of what an encode wrote gives the message back, the text up to its first EOM and one EOM
(R240, R246), when the message fits a text buffer, and raises TX_FULL when it is longer. Of any stream whatever, in a state
of the invariant with R246's tests passed (R171, R243, R304): the decode gives a text of symbols of the table, no longer
than TCAP, whose one EOM is its last byte, or it raises TX_FULL; it never raises I_INTERVAL. -/
def Obligations.ArithmeticRoundTripAndErrors : Prop :=
  (∀ (s t : State) (a b d : BufIdx), s.Inv → d.toNat < s.cap.ntb → exec (.encArith a b) s = .next t → t.status.err = 0 →
    ((arMessage s.eom (s.mem.getTx b)).length ≤ s.cap.tcap →
      ∃ u, exec (.decArith d a) t = .next u ∧ CompletedOk t u ∧ u.mem.getTx d = arMessage s.eom (s.mem.getTx b)) ∧
    (s.cap.tcap < (arMessage s.eom (s.mem.getTx b)).length →
      ∃ u, exec (.decArith d a) t = .next u ∧ CompletedWith .txFull t u)) ∧
  (∀ (s : State) (a b : BufIdx), s.Inv → a.toNat < s.cap.ntb → b.toNat < s.cap.nbs → s.table.valid = true →
    (s.table.indexOf s.eom).isSome = true → s.valid.arith = true →
    ∃ t, exec (.decArith a b) s = .next t ∧
      ((OneTextWritten a s t ∧ ∃ y : Text, t.mem.getTx a = y ++ [s.eom] ∧ s.eom ∉ y ∧ y.length + 1 ≤ s.cap.tcap ∧
          ∀ c ∈ y, (s.table.indexOf c).isSome = true) ∨
        CompletedWith .txFull s t))

/-- LZ77: a decode with the sizes an encode left gives the text back. R271, R171, token by token: after a stream `pre` that
decodes to `x`, a cut-short token raises LENGTH, a match farther back than `x` is long DISTANCE, a literal at or beyond ST_N
CODE_RANGE, a token past TCAP TX_FULL, each whatever follows; a token that fits adds its symbol or its copy. -/
def Obligations.Lz77RoundTripAndErrors : Prop :=
  (∀ (s t : State) (a b d : BufIdx), s.Inv → d.toNat < s.cap.ntb →
    exec (.encLz77 a b) s = .next t → t.status.err = 0 →
    ∃ u, exec (.decLz77 d a) t = .next u ∧ CompletedOk t u ∧ u.mem.getTx d = s.mem.getTx b) ∧
  (∀ (s s' t : State) (a b : BufIdx) (pre tail rest : BitSeq) (x : Text) (symW distW lenW : Nat),
    Memory.wf s.cap s.mem →
    exec (.decLz77 a b) (s.putBs b pre) = .next t → t.status.err = 0 → x = t.mem.getTx a →
    s' = s.putBs b (pre ++ tail) →
    symW = clog2 s.table.n.toNat → distW = clog2 s.lz77Window.toNat → lenW = clog2 s.lz77Lookahead.toNat →
    (tail = true :: rest → rest.length < distW + lenW →
      ∃ u, exec (.decLz77 a b) s' = .next u ∧ CompletedWith .formatLength s' u) ∧
    (tail = false :: rest → rest.length < symW →
      ∃ u, exec (.decLz77 a b) s' = .next u ∧ CompletedWith .formatLength s' u) ∧
    (∀ d l : Nat, 1 ≤ d → d ≤ 2 ^ distW → 1 ≤ l → l ≤ 2 ^ lenW →
      tail = true :: (uBits (d - 1) distW ++ (uBits (l - 1) lenW ++ rest)) →
      (x.length < d → ∃ u, exec (.decLz77 a b) s' = .next u ∧ CompletedWith .distance s' u) ∧
      (d ≤ x.length → s.cap.tcap < x.length + l →
        ∃ u, exec (.decLz77 a b) s' = .next u ∧ CompletedWith .txFull s' u) ∧
      (d ≤ x.length → x.length + l ≤ s.cap.tcap → rest = [] →
        ∃ u y, exec (.decLz77 a b) s' = .next u ∧ OneTextWritten a s' u ∧ u.mem.getTx a = x ++ y ∧ y.length = l ∧
          ∀ j : Nat, j < l → (x ++ y)[x.length + j]? = (x ++ y)[x.length + j - d]?)) ∧
    (∀ i : Nat, i < 2 ^ symW → tail = false :: (uBits i symW ++ rest) →
      (s.table.n.toNat ≤ i → ∃ u, exec (.decLz77 a b) s' = .next u ∧ CompletedWith .codeRange s' u) ∧
      (i < s.table.n.toNat → x.length = s.cap.tcap →
        ∃ u, exec (.decLz77 a b) s' = .next u ∧ CompletedWith .txFull s' u) ∧
      (i < s.table.n.toNat → x.length < s.cap.tcap → rest = [] →
        ∃ u, exec (.decLz77 a b) s' = .next u ∧ OneTextWritten a s' u ∧ u.mem.getTx a = x ++ [s.table.symAt i])))

/-- LZW: a decode with the block size an encode left gives the message back, the text before its first EOM (R286), and ends
with the encoder's dictionary size. R289, with its tests passed: the empty stream gives the empty text; a length that is no
multiple of the block size, or any bit with block size 0, raises LENGTH; a first code at or beyond ST_N, or a later one
beyond the size reached, raises CODE_RANGE, whatever whole codes follow. R289, R171, for every list of codes in range: their
strings (LzwStrings), when they fit TCAP together, are the output, and LZW_DICTSIZE is ST_N and one for each code but the
first; strings longer than TCAP raise TX_FULL, whatever whole codes follow; the next code above its limit CODE_RANGE. -/
def Obligations.LzwRoundTripAndErrors : Prop :=
  (∀ (s t : State) (a b d : BufIdx), s.Inv → d.toNat < s.cap.ntb →
    exec (.encLzw a b) s = .next t → t.status.err = 0 →
    ∃ u, exec (.decLzw d a) t = .next u ∧ CompletedOk t u ∧ u.mem.getTx d = lzwMessage s.eom (s.mem.getTx b) ∧
      u.lzwDictsize = t.lzwDictsize) ∧
  (∀ (s : State) (a b : BufIdx) (w : Nat), s.Inv → a.toNat < s.cap.ntb → b.toNat < s.cap.nbs → s.table.valid = true →
    (s.table.indexOf s.eom).isSome = true → s.valid.lzw = true → w = s.lzwBlocksize.toNat →
    (s.mem.getBs b = [] →
      ∃ t, exec (.decLzw a b) s = .next t ∧ CompletedOk s t ∧ t.mem.getTx a = [] ∧
        t.lzwDictsize.toNat = s.table.n.toNat) ∧
    (w = 0 → s.mem.getBs b ≠ [] → ∃ t, exec (.decLzw a b) s = .next t ∧ CompletedWith .formatLength s t) ∧
    (w ≠ 0 → (s.mem.getBs b).length % w ≠ 0 →
      ∃ t, exec (.decLzw a b) s = .next t ∧ CompletedWith .formatLength s t) ∧
    (∀ (k : Nat) (rest : BitSeq), w ≠ 0 → rest.length % w = 0 → k < 2 ^ w →
      (s.table.n.toNat ≤ k → s.mem.getBs b = uBits k w ++ rest →
        ∃ t, exec (.decLzw a b) s = .next t ∧ CompletedWith .codeRange s t) ∧
      (∀ (pre : BitSeq) (s' t : State), pre ≠ [] → exec (.decLzw a b) (s.putBs b pre) = .next t → t.status.err = 0 →
        t.lzwDictsize.toNat < k → s' = s.putBs b (pre ++ (uBits k w ++ rest)) →
        ∃ u, exec (.decLzw a b) s' = .next u ∧ CompletedWith .codeRange s' u)) ∧
    (∀ (ks : List Nat) (es : List Text) (rest : BitSeq), w ≠ 0 → (∀ k ∈ ks, k < 2 ^ w) → LzwStrings s.table ks es →
      s.mem.getBs b = ks.flatMap (fun k => uBits k w) ++ rest →
      (rest = [] → es.flatten.length ≤ s.cap.tcap →
        ∃ t, exec (.decLzw a b) s = .next t ∧ CompletedOk s t ∧ t.mem.getTx a = es.flatten ∧
          t.lzwDictsize.toNat = s.table.n.toNat + (ks.length - 1)) ∧
      (rest.length % w = 0 → s.cap.tcap < es.flatten.length →
        ∃ t, exec (.decLzw a b) s = .next t ∧ CompletedWith .txFull s t) ∧
      (∀ (k : Nat) (rest' : BitSeq), rest = uBits k w ++ rest' → rest'.length % w = 0 → k < 2 ^ w →
        es.flatten.length ≤ s.cap.tcap → s.table.n.toNat + (ks.length - 1) ≤ k →
        (ks ≠ [] → s.table.n.toNat + (ks.length - 1) < k) →
        ∃ t, exec (.decLzw a b) s = .next t ∧ CompletedWith .codeRange s t)))

/-! ## Codecs: their algorithms -/

/-- R199: the tree of a built table has n - 1 internal nodes, one code per symbol, no code a prefix of another, and for
n >= 2 the code is complete: every bit sequence long enough starts with a code. -/
def Obligations.HuffmanCodeIsPrefixFreeAndComplete : Prop :=
  ∀ t : Table, t.valid = true → t.wf →
    (hufChildren t.weights).length = t.size - 1 ∧ (hufCodes t.weights).length = t.size ∧
    (∀ i j : Nat, i < t.size → j < t.size → i ≠ j →
      ¬ (hufCodes t.weights).getD i [] <+: (hufCodes t.weights).getD j []) ∧
    (2 ≤ t.size → ∀ bits : BitSeq, t.size ≤ bits.length → ∃ i, i < t.size ∧ (hufCodes t.weights).getD i [] <+: bits)

/-- R195 to R198. Of the candidate merges that exist the one taken has the least sum, and of those with the least sum it is
the first in the order leaf-leaf, leaf-node, node-node; the element taken first, the earlier leaf, or the leaf before the
node, or the older node, is child 0 and the other child 1. The leaf queue of a built table is lightest first, of equal
weights the higher index first; the merge's children are HUF_C0 and HUF_C1; a symbol's code leads from HUF_ROOT to its
leaf, 0 through HUF_C0 and 1 through HUF_C1. -/
def Obligations.HuffmanMergeAndChildOrder : Prop :=
  (∀ (w : Nat → Nat) (ls : List Nat) (q : List (Nat × Nat)), 2 ≤ ls.length + q.length →
    ∃ c, hufPick w ls q = some c ∧
      (∀ m k : Nat, hufMerges w (m + 1) k ls q = (c.c0, c.c1) :: hufMerges w m (k + 1) c.leaves (c.nodes ++ [(k, c.sum)])) ∧
      (∀ x y r, ls = x :: y :: r → c.sum ≤ w x + w y) ∧
      (∀ x r k v p, ls = x :: r → q = (k, v) :: p → c.sum ≤ w x + v) ∧
      (∀ k v k' v' p, q = (k, v) :: (k', v') :: p → c.sum ≤ v + v') ∧
      ((∃ x y r, ls = x :: y :: r ∧ c = { sum := w x + w y, c0 := x, c1 := y, leaves := r, nodes := q }) ∨
       (∃ x r k v p, ls = x :: r ∧ q = (k, v) :: p ∧
          c = { sum := w x + v, c0 := x, c1 := k, leaves := r, nodes := p } ∧
          ∀ y z r', ls = y :: z :: r' → c.sum < w y + w z) ∨
       (∃ k v k' v' p, q = (k, v) :: (k', v') :: p ∧
          c = { sum := v + v', c0 := k, c1 := k', leaves := ls, nodes := p } ∧
          (∀ y z r', ls = y :: z :: r' → c.sum < w y + w z) ∧ ∀ y r', ls = y :: r' → c.sum < w y + v))) ∧
  (∀ (t : Table) (ls : List Nat), t.valid = true → t.wf → ls = (stableSortDesc t.weights).reverse →
    hufChildren t.weights = hufMerges t.weightAt (t.size - 1) t.size ls [] ∧
    ls.Perm (List.range t.size) ∧
    ls.Pairwise (fun i j => t.weightAt i < t.weightAt j ∨ (t.weightAt i = t.weightAt j ∧ j < i)) ∧
    (hufBuild t).n = t.n ∧ (hufBuild t).root.toNat = (if t.size = 1 then 0 else 2 * t.size - 2) ∧
    (∀ j x y : Nat, (hufChildren t.weights)[j]? = some (x, y) →
      ((hufBuild t).c0.toList.getD (t.size + j) 0).toNat = x ∧ ((hufBuild t).c1.toList.getD (t.size + j) 0).toNat = y) ∧
    ∀ i : Nat, i < t.size →
      (hufBuild t).codeAt i = (hufCodes t.weights).getD i [] ∧
      (hufBuild t).lenAt i = ((hufCodes t.weights).getD i []).length ∧
      (t.size = 1 → (hufCodes t.weights).getD i [] = [false]) ∧
      (2 ≤ t.size →
        ((hufCodes t.weights).getD i []).foldl
          (fun x b => ((if b then (hufBuild t).c1 else (hufBuild t).c0).toList.getD x 0).toNat)
          (hufBuild t).root.toNat = i))

/-- R215, R218: each symbol of weight at least 1 has the least length L >= 1 with w * 2^L >= S and the code
floor(cum * 2^L / S) in L bits, cum being the weight of the symbols before it in the order of R18; a weight-0 symbol has
none; no codeword is a prefix of another; a heavier symbol has no longer codeword. -/
def Obligations.ShannonFanoCodeIsPrefixFree : Prop :=
  ∀ t : Table, t.valid = true → t.wf →
    (∀ i : Nat, i < t.size →
      (t.weightAt i = 0 → (sfBuild t).lenAt i = 0) ∧
      (0 < t.weightAt i → 1 ≤ (sfBuild t).lenAt i ∧ t.total ≤ t.weightAt i * 2 ^ (sfBuild t).lenAt i ∧
        (∀ L : Nat, 1 ≤ L → t.total ≤ t.weightAt i * 2 ^ L → (sfBuild t).lenAt i ≤ L) ∧
        ∀ cum : Nat,
          cum = (((List.range t.size).filter (fun j =>
            decide (t.weightAt i < t.weightAt j ∨ (t.weightAt j = t.weightAt i ∧ j < i)))).map t.weightAt).sum →
          (sfBuild t).codeword i =
            uBits (cum * 2 ^ (sfBuild t).lenAt i / t.total) ((sfBuild t).lenAt i))) ∧
    (∀ i j : Nat, i < t.size → j < t.size → i ≠ j → 0 < t.weightAt i → 0 < t.weightAt j →
      ¬ (sfBuild t).codeword i <+: (sfBuild t).codeword j ∧
      (t.weightAt j < t.weightAt i → (sfBuild t).lenAt i ≤ (sfBuild t).lenAt j))

/-- R238: narrowing by a sub-interval fails exactly when it is empty, and else gives the two floors, inside the interval it
began with. -/
def Obligations.NarrowingFailsOnlyOnWeightZero : Prop :=
  ∀ (S lo hi : Nat) (iv : Interval), 0 < S → S < 2 ^ 32 → lo ≤ hi → hi ≤ S → iv.low ≤ iv.high →
    2 ^ 51 < iv.high - iv.low + 1 →
    (arNarrow S lo hi iv = .error .iInterval ↔ lo = hi) ∧
    (lo < hi → ∃ iv', arNarrow S lo hi iv = .ok iv' ∧
      iv'.high + 1 = iv.low + (iv.high - iv.low + 1) * hi / S ∧
      iv'.low = iv.low + (iv.high - iv.low + 1) * lo / S ∧
      iv.low ≤ iv'.low ∧ iv'.low ≤ iv'.high ∧ iv'.high ≤ iv.high)

/-- R239, R244: a turn of the renormalization takes `c` off both bounds and doubles them, the higher one filled with 1:
`c` is 0 below the half, with a 0 and the pending 1s emitted; the half at or above it, with a 1 and the pending 0s; a
quarter in the middle half, with one more bit pending. The decoder does the same to its value and brings in the next bit, 0
past the end. The loop runs to its own exit, where low < H <= high and the range is above Q, in coder and decoder alike. -/
def Obligations.RenormalizationScalesAndReachesItsExit : Prop :=
  ∀ (iv : Interval) (p : Nat) (fd : BitFeed), iv.low ≤ iv.high → iv.high < 2 ^ 53 →
    (renormCase (encRenorm 53 iv p).2.1 = .done ∧
      (encRenorm 53 iv p).2.1.low < 2 ^ 52 ∧ 2 ^ 52 ≤ (encRenorm 53 iv p).2.1.high ∧
      (encRenorm 53 iv p).2.1.high < 2 ^ 53 ∧
      2 ^ 51 < (encRenorm 53 iv p).2.1.high - (encRenorm 53 iv p).2.1.low + 1 ∧
      (decRenorm 53 iv fd).1 = (encRenorm 53 iv p).2.1) ∧
    ∀ (f c : Nat) (iv' : Interval) (fd' : BitFeed), iv.low ≤ fd.v → fd.v ≤ iv.high →
      iv' = { low := 2 * (iv.low - c), high := 2 * (iv.high - c) + 1 } →
      fd' = { v := 2 * (fd.v - c) + (fd.rest.headD false).toNat, rest := fd.rest.tail } →
      (c = 0 → iv.high < 2 ^ 52 →
        encRenorm (f + 1) iv p = (false :: (List.replicate p true ++ (encRenorm f iv' 0).1), (encRenorm f iv' 0).2) ∧
        decRenorm (f + 1) iv fd = decRenorm f iv' fd') ∧
      (c = 2 ^ 52 → 2 ^ 52 ≤ iv.low →
        encRenorm (f + 1) iv p = (true :: (List.replicate p false ++ (encRenorm f iv' 0).1), (encRenorm f iv' 0).2) ∧
        decRenorm (f + 1) iv fd = decRenorm f iv' fd') ∧
      (c = 2 ^ 51 → 2 ^ 51 ≤ iv.low → iv.low < 2 ^ 52 → 2 ^ 52 ≤ iv.high → iv.high < 3 * 2 ^ 51 →
        encRenorm (f + 1) iv p = encRenorm f iv' (p + 1) ∧ decRenorm (f + 1) iv fd = decRenorm f iv' fd')

/-- R265, R12, R13: the LZ77 sizes: the window is the integer cube root, FloorLn the greatest k in 0..22 whose threshold
the length reaches, and both sizes lie in the bounds the rule derives. -/
def Obligations.Lz77SizesFollowTheLength : Prop :=
  (lzWindow 0 = 0 ∧ lzLookahead 0 = 0) ∧
  ∀ n : Nat, 1 ≤ n → n < 2 ^ 32 →
    lzWindow n ^ 3 ≤ n ∧ n < (lzWindow n + 1) ^ 3 ∧ 1 ≤ lzWindow n ∧ lzWindow n ≤ 1625 ∧
    floorLn n ≤ 22 ∧ lnThresholds.getD (floorLn n) 0 ≤ n ∧
    (∀ k : Nat, k ≤ 22 → lnThresholds.getD k 0 ≤ n → k ≤ floorLn n) ∧
    lzLookahead n = min n (max (10 + floorLn n) 15) ∧ 1 ≤ lzLookahead n ∧ lzLookahead n ≤ 32

/-- R268: the match taken at a position is the longest that starts within the window and stays within the lookahead and the
text, and of the longest the nearest; it may run into the position itself. With no match both of its fields are 0.
R267, R268, R270: the output of ENC.LZ77 is the layout of the tokens of LzGreedy: a match exactly where one of 3 or more
exists, a literal elsewhere. -/
def Obligations.Lz77TakesTheLongestNearestMatch : Prop :=
  (∀ (t : Table) (text : Text) (idx : List Nat) (win la : Nat), t.lookupAll text = some idx →
    LzGreedy text idx win la 0 (lzTokens text idx win la text.length 0) ∧
    (win = lzWindow text.length → la = lzLookahead text.length →
      lzEncode t text idx = (lzTokens text idx win la text.length 0).flatMap (lzTokenBits (lzWidths t win la))) ∧
    (∀ i : Nat, lzTokenBits (lzWidths t win la) (.literal i) = false :: uBits i (clog2 t.n.toNat)) ∧
    ∀ d l : Nat, lzTokenBits (lzWidths t win la) (.copy d l) =
      true :: (uBits (d - 1) (clog2 win) ++ uBits (l - 1) (clog2 la))) ∧
  ∀ (text : Text) (win la pos : Nat) (m : Nat × Nat), pos ≤ text.length → m = bestMatch text win la pos →
    (∀ d k : Nat, 1 ≤ d → d ≤ win → d ≤ pos → k ≤ la → pos + k ≤ text.length →
      (∀ j : Nat, j < k → text[pos - d + j]? = text[pos + j]?) → k ≤ m.2) ∧
    (0 < m.2 →
      1 ≤ m.1 ∧ m.1 ≤ win ∧ m.1 ≤ pos ∧ m.2 ≤ la ∧ pos + m.2 ≤ text.length ∧
      (∀ j : Nat, j < m.2 → text[pos - m.1 + j]? = text[pos + j]?) ∧
      ∀ d : Nat, 1 ≤ d → d < m.1 → ∃ j : Nat, j < m.2 ∧ text[pos - d + j]? ≠ text[pos + j]?) ∧
    (m.2 = 0 → m.1 = 0)

/-- R287: the encoder's dictionary grows by one entry per code but the last, and every code is below the final size, so it
fits the block size. The codes stand for the message, a symbol by its least index, and no entry is made twice: the string of
a code with the byte after it is a new one each time, so each code is the longest that the dictionary allows. -/
def Obligations.LzwCodesAreTheLongestAndFit : Prop :=
  ∀ (t : Table) (msg : Text) (idx : List Nat), t.valid = true → t.wf → t.lookupAll msg = some idx →
    (msg = [] → lzwCodes t msg = ([], t.size)) ∧
    (msg ≠ [] → 1 ≤ (lzwCodes t msg).1.length ∧
      (lzwCodes t msg).2 = t.size + (lzwCodes t msg).1.length - 1 ∧ (lzwCodes t msg).1.length ≤ msg.length) ∧
    (∀ k ∈ (lzwCodes t msg).1, k < (lzwCodes t msg).2 ∧ k < 2 ^ clog2 (lzwCodes t msg).2 ∧
      (k < t.size → t.indexOf (t.symAt k) = some k)) ∧
    ∃ es : List Text, LzwStrings t (lzwCodes t msg).1 es ∧ es.flatten = msg ∧
      ∀ i j : Nat, i < j → j + 1 < es.length →
        es.getD i [] ++ (es.getD (i + 1) []).take 1 ≠ es.getD j [] ++ (es.getD (j + 1) []).take 1

/-! ## The whole machine -/

/-- Every step keeps the machine's invariant: the buffers keep their number and capacities, a built table stays within its
rules, the derived state a VALID bit vouches for is the one its codec builds from the table that is there, and STATUS
holds a pair of the error tables. -/
def Obligations.EveryStepKeepsTheInvariant : Prop := ∀ s t : State, s.Inv → step s = .next t → t.Inv

/-- The invariant holds right after reset, for every legal choice of the parameters. -/
def Obligations.InvariantHoldsAfterReset : Prop := (∀ p : Params, p.ok → (State.resetFor p).Inv) ∧ State.reset.Inv

/-- R45 to R47, R330: the derived state that no VALID bit vouches for is unobservable: two states that differ at most in it
answer every step with states that differ at most in it, and look the same to the world. -/
def Obligations.UnvouchedStateIsUnobservable : Prop :=
  ∀ s t : State, s.obsEq t →
    observe s = observe t ∧ ∃ s' t', step s = .next s' ∧ step t = .next t' ∧ s'.obsEq t'
end

