-- ==== Sys2Proof/Laws/State.lean ====
section
/-! SUPPORT. One lemma per field for each update of the state, true by definition, so that no proof unfolds a record update. -/

namespace Sys2Proof.Machine

/-! ### Replacing a bit-stream buffer -/

@[simp] theorem putBs_cap (s : State) (b : BufIdx) (v : BitSeq) : (s.putBs b v).cap = s.cap := rfl
@[simp] theorem putBs_arg0 (s : State) (b : BufIdx) (v : BitSeq) : (s.putBs b v).arg0 = s.arg0 := rfl
@[simp] theorem putBs_arg1 (s : State) (b : BufIdx) (v : BitSeq) : (s.putBs b v).arg1 = s.arg1 := rfl
@[simp] theorem putBs_arg2 (s : State) (b : BufIdx) (v : BitSeq) : (s.putBs b v).arg2 = s.arg2 := rfl
@[simp] theorem putBs_res0 (s : State) (b : BufIdx) (v : BitSeq) : (s.putBs b v).res0 = s.res0 := rfl
@[simp] theorem putBs_res1 (s : State) (b : BufIdx) (v : BitSeq) : (s.putBs b v).res1 = s.res1 := rfl
@[simp] theorem putBs_lCmd (s : State) (b : BufIdx) (v : BitSeq) : (s.putBs b v).lCmd = s.lCmd := rfl
@[simp] theorem putBs_lArg0 (s : State) (b : BufIdx) (v : BitSeq) : (s.putBs b v).lArg0 = s.lArg0 := rfl
@[simp] theorem putBs_lArg1 (s : State) (b : BufIdx) (v : BitSeq) : (s.putBs b v).lArg1 = s.lArg1 := rfl
@[simp] theorem putBs_lArg2 (s : State) (b : BufIdx) (v : BitSeq) : (s.putBs b v).lArg2 = s.lArg2 := rfl
@[simp] theorem putBs_status (s : State) (b : BufIdx) (v : BitSeq) : (s.putBs b v).status = s.status := rfl
@[simp] theorem putBs_cmdCount (s : State) (b : BufIdx) (v : BitSeq) : (s.putBs b v).cmdCount = s.cmdCount := rfl
@[simp] theorem putBs_staging (s : State) (b : BufIdx) (v : BitSeq) : (s.putBs b v).staging = s.staging := rfl
@[simp] theorem putBs_table (s : State) (b : BufIdx) (v : BitSeq) : (s.putBs b v).table = s.table := rfl
@[simp] theorem putBs_eom (s : State) (b : BufIdx) (v : BitSeq) : (s.putBs b v).eom = s.eom := rfl
@[simp] theorem putBs_valid (s : State) (b : BufIdx) (v : BitSeq) : (s.putBs b v).valid = s.valid := rfl
@[simp] theorem putBs_lz77Window (s : State) (b : BufIdx) (v : BitSeq) : (s.putBs b v).lz77Window = s.lz77Window := rfl
@[simp] theorem putBs_lz77Lookahead (s : State) (b : BufIdx) (v : BitSeq) : (s.putBs b v).lz77Lookahead = s.lz77Lookahead := rfl
@[simp] theorem putBs_lzwBlocksize (s : State) (b : BufIdx) (v : BitSeq) : (s.putBs b v).lzwBlocksize = s.lzwBlocksize := rfl
@[simp] theorem putBs_lzwDictsize (s : State) (b : BufIdx) (v : BitSeq) : (s.putBs b v).lzwDictsize = s.lzwDictsize := rfl
@[simp] theorem putBs_huf (s : State) (b : BufIdx) (v : BitSeq) : (s.putBs b v).huf = s.huf := rfl
@[simp] theorem putBs_sf (s : State) (b : BufIdx) (v : BitSeq) : (s.putBs b v).sf = s.sf := rfl
@[simp] theorem putBs_ar (s : State) (b : BufIdx) (v : BitSeq) : (s.putBs b v).ar = s.ar := rfl
@[simp] theorem putBs_turns (s : State) (b : BufIdx) (v : BitSeq) : (s.putBs b v).turns = s.turns := rfl
@[simp] theorem putBs_hostSaw (s : State) (b : BufIdx) (v : BitSeq) : (s.putBs b v).hostSaw = s.hostSaw := rfl
@[simp] theorem putBs_mem (s : State) (b : BufIdx) (v : BitSeq) : (s.putBs b v).mem = s.mem.setBs b v := rfl

/-! ### Replacing a text buffer -/

@[simp] theorem putTx_cap (s : State) (t : BufIdx) (v : Text) : (s.putTx t v).cap = s.cap := rfl
@[simp] theorem putTx_arg0 (s : State) (t : BufIdx) (v : Text) : (s.putTx t v).arg0 = s.arg0 := rfl
@[simp] theorem putTx_arg1 (s : State) (t : BufIdx) (v : Text) : (s.putTx t v).arg1 = s.arg1 := rfl
@[simp] theorem putTx_arg2 (s : State) (t : BufIdx) (v : Text) : (s.putTx t v).arg2 = s.arg2 := rfl
@[simp] theorem putTx_res0 (s : State) (t : BufIdx) (v : Text) : (s.putTx t v).res0 = s.res0 := rfl
@[simp] theorem putTx_res1 (s : State) (t : BufIdx) (v : Text) : (s.putTx t v).res1 = s.res1 := rfl
@[simp] theorem putTx_lCmd (s : State) (t : BufIdx) (v : Text) : (s.putTx t v).lCmd = s.lCmd := rfl
@[simp] theorem putTx_lArg0 (s : State) (t : BufIdx) (v : Text) : (s.putTx t v).lArg0 = s.lArg0 := rfl
@[simp] theorem putTx_lArg1 (s : State) (t : BufIdx) (v : Text) : (s.putTx t v).lArg1 = s.lArg1 := rfl
@[simp] theorem putTx_lArg2 (s : State) (t : BufIdx) (v : Text) : (s.putTx t v).lArg2 = s.lArg2 := rfl
@[simp] theorem putTx_status (s : State) (t : BufIdx) (v : Text) : (s.putTx t v).status = s.status := rfl
@[simp] theorem putTx_cmdCount (s : State) (t : BufIdx) (v : Text) : (s.putTx t v).cmdCount = s.cmdCount := rfl
@[simp] theorem putTx_staging (s : State) (t : BufIdx) (v : Text) : (s.putTx t v).staging = s.staging := rfl
@[simp] theorem putTx_table (s : State) (t : BufIdx) (v : Text) : (s.putTx t v).table = s.table := rfl
@[simp] theorem putTx_eom (s : State) (t : BufIdx) (v : Text) : (s.putTx t v).eom = s.eom := rfl
@[simp] theorem putTx_valid (s : State) (t : BufIdx) (v : Text) : (s.putTx t v).valid = s.valid := rfl
@[simp] theorem putTx_lz77Window (s : State) (t : BufIdx) (v : Text) : (s.putTx t v).lz77Window = s.lz77Window := rfl
@[simp] theorem putTx_lz77Lookahead (s : State) (t : BufIdx) (v : Text) : (s.putTx t v).lz77Lookahead = s.lz77Lookahead := rfl
@[simp] theorem putTx_lzwBlocksize (s : State) (t : BufIdx) (v : Text) : (s.putTx t v).lzwBlocksize = s.lzwBlocksize := rfl
@[simp] theorem putTx_lzwDictsize (s : State) (t : BufIdx) (v : Text) : (s.putTx t v).lzwDictsize = s.lzwDictsize := rfl
@[simp] theorem putTx_huf (s : State) (t : BufIdx) (v : Text) : (s.putTx t v).huf = s.huf := rfl
@[simp] theorem putTx_sf (s : State) (t : BufIdx) (v : Text) : (s.putTx t v).sf = s.sf := rfl
@[simp] theorem putTx_ar (s : State) (t : BufIdx) (v : Text) : (s.putTx t v).ar = s.ar := rfl
@[simp] theorem putTx_turns (s : State) (t : BufIdx) (v : Text) : (s.putTx t v).turns = s.turns := rfl
@[simp] theorem putTx_hostSaw (s : State) (t : BufIdx) (v : Text) : (s.putTx t v).hostSaw = s.hostSaw := rfl
@[simp] theorem putTx_mem (s : State) (t : BufIdx) (v : Text) : (s.putTx t v).mem = s.mem.setTx t v := rfl

/-! ### Completion (60_exceptions.md R313) -/

@[simp] theorem complete_cap (r : Option Err) (s : State) : (complete r s).cap = s.cap := rfl
@[simp] theorem complete_arg0 (r : Option Err) (s : State) : (complete r s).arg0 = s.arg0 := rfl
@[simp] theorem complete_arg1 (r : Option Err) (s : State) : (complete r s).arg1 = s.arg1 := rfl
@[simp] theorem complete_arg2 (r : Option Err) (s : State) : (complete r s).arg2 = s.arg2 := rfl
@[simp] theorem complete_res0 (r : Option Err) (s : State) : (complete r s).res0 = s.res0 := rfl
@[simp] theorem complete_res1 (r : Option Err) (s : State) : (complete r s).res1 = s.res1 := rfl
@[simp] theorem complete_lCmd (r : Option Err) (s : State) : (complete r s).lCmd = s.lCmd := rfl
@[simp] theorem complete_lArg0 (r : Option Err) (s : State) : (complete r s).lArg0 = s.lArg0 := rfl
@[simp] theorem complete_lArg1 (r : Option Err) (s : State) : (complete r s).lArg1 = s.lArg1 := rfl
@[simp] theorem complete_lArg2 (r : Option Err) (s : State) : (complete r s).lArg2 = s.lArg2 := rfl
@[simp] theorem complete_mem (r : Option Err) (s : State) : (complete r s).mem = s.mem := rfl
@[simp] theorem complete_staging (r : Option Err) (s : State) : (complete r s).staging = s.staging := rfl
@[simp] theorem complete_table (r : Option Err) (s : State) : (complete r s).table = s.table := rfl
@[simp] theorem complete_eom (r : Option Err) (s : State) : (complete r s).eom = s.eom := rfl
@[simp] theorem complete_valid (r : Option Err) (s : State) : (complete r s).valid = s.valid := rfl
@[simp] theorem complete_lz77Window (r : Option Err) (s : State) : (complete r s).lz77Window = s.lz77Window := rfl
@[simp] theorem complete_lz77Lookahead (r : Option Err) (s : State) : (complete r s).lz77Lookahead = s.lz77Lookahead := rfl
@[simp] theorem complete_lzwBlocksize (r : Option Err) (s : State) : (complete r s).lzwBlocksize = s.lzwBlocksize := rfl
@[simp] theorem complete_lzwDictsize (r : Option Err) (s : State) : (complete r s).lzwDictsize = s.lzwDictsize := rfl
@[simp] theorem complete_huf (r : Option Err) (s : State) : (complete r s).huf = s.huf := rfl
@[simp] theorem complete_sf (r : Option Err) (s : State) : (complete r s).sf = s.sf := rfl
@[simp] theorem complete_ar (r : Option Err) (s : State) : (complete r s).ar = s.ar := rfl
@[simp] theorem complete_turns (r : Option Err) (s : State) : (complete r s).turns = s.turns := rfl
@[simp] theorem complete_hostSaw (r : Option Err) (s : State) : (complete r s).hostSaw = s.hostSaw := rfl
@[simp] theorem complete_cmdCount (r : Option Err) (s : State) : (complete r s).cmdCount = s.cmdCount + 1 := rfl
@[simp] theorem complete_err (r : Option Err) (s : State) : (complete r s).status.err = kindOf r := rfl
@[simp] theorem complete_detail (r : Option Err) (s : State) : (complete r s).status.detail = detailOf r := rfl
@[simp] theorem complete_busy (r : Option Err) (s : State) : (complete r s).status.busy = false := rfl
@[simp] theorem complete_ovr (r : Option Err) (s : State) : (complete r s).status.ovr = s.status.ovr := rfl
@[simp] theorem complete_anyErr (r : Option Err) (s : State) : (complete r s).status.anyErr = (s.status.anyErr || r.isSome) := rfl
@[simp] theorem complete_lastOp (r : Option Err) (s : State) : (complete r s).status.lastOp = s.lCmd.extractLsb' 0 8 := rfl

/-! ### A command word set up to run -/

@[simp] theorem withFetchWord_cap (s : State) (nbits w : Nat) : (s.withFetchWord nbits w).cap = s.cap := rfl
@[simp] theorem withFetchWord_arg0 (s : State) (nbits w : Nat) : (s.withFetchWord nbits w).arg0 = s.arg0 := rfl
@[simp] theorem withFetchWord_arg1 (s : State) (nbits w : Nat) : (s.withFetchWord nbits w).arg1 = s.arg1 := rfl
@[simp] theorem withFetchWord_arg2 (s : State) (nbits w : Nat) : (s.withFetchWord nbits w).arg2 = s.arg2 := rfl
@[simp] theorem withFetchWord_res0 (s : State) (nbits w : Nat) : (s.withFetchWord nbits w).res0 = s.res0 := rfl
@[simp] theorem withFetchWord_res1 (s : State) (nbits w : Nat) : (s.withFetchWord nbits w).res1 = s.res1 := rfl
@[simp] theorem withFetchWord_lArg0 (s : State) (nbits w : Nat) : (s.withFetchWord nbits w).lArg0 = s.lArg0 := rfl
@[simp] theorem withFetchWord_lArg1 (s : State) (nbits w : Nat) : (s.withFetchWord nbits w).lArg1 = s.lArg1 := rfl
@[simp] theorem withFetchWord_lArg2 (s : State) (nbits w : Nat) : (s.withFetchWord nbits w).lArg2 = s.lArg2 := rfl
@[simp] theorem withFetchWord_cmdCount (s : State) (nbits w : Nat) : (s.withFetchWord nbits w).cmdCount = s.cmdCount := rfl
@[simp] theorem withFetchWord_mem (s : State) (nbits w : Nat) : (s.withFetchWord nbits w).mem = s.mem := rfl
@[simp] theorem withFetchWord_staging (s : State) (nbits w : Nat) : (s.withFetchWord nbits w).staging = s.staging := rfl
@[simp] theorem withFetchWord_table (s : State) (nbits w : Nat) : (s.withFetchWord nbits w).table = s.table := rfl
@[simp] theorem withFetchWord_eom (s : State) (nbits w : Nat) : (s.withFetchWord nbits w).eom = s.eom := rfl
@[simp] theorem withFetchWord_valid (s : State) (nbits w : Nat) : (s.withFetchWord nbits w).valid = s.valid := rfl
@[simp] theorem withFetchWord_lz77Window (s : State) (nbits w : Nat) : (s.withFetchWord nbits w).lz77Window = s.lz77Window := rfl
@[simp] theorem withFetchWord_lz77Lookahead (s : State) (nbits w : Nat) : (s.withFetchWord nbits w).lz77Lookahead = s.lz77Lookahead := rfl
@[simp] theorem withFetchWord_lzwBlocksize (s : State) (nbits w : Nat) : (s.withFetchWord nbits w).lzwBlocksize = s.lzwBlocksize := rfl
@[simp] theorem withFetchWord_lzwDictsize (s : State) (nbits w : Nat) : (s.withFetchWord nbits w).lzwDictsize = s.lzwDictsize := rfl
@[simp] theorem withFetchWord_huf (s : State) (nbits w : Nat) : (s.withFetchWord nbits w).huf = s.huf := rfl
@[simp] theorem withFetchWord_sf (s : State) (nbits w : Nat) : (s.withFetchWord nbits w).sf = s.sf := rfl
@[simp] theorem withFetchWord_ar (s : State) (nbits w : Nat) : (s.withFetchWord nbits w).ar = s.ar := rfl
@[simp] theorem withFetchWord_hostSaw (s : State) (nbits w : Nat) : (s.withFetchWord nbits w).hostSaw = s.hostSaw := rfl
@[simp] theorem withFetchWord_lCmd (s : State) (nbits w : Nat) : (s.withFetchWord nbits w).lCmd = BitVec.ofNat 32 (w % 2 ^ nbits) := rfl
@[simp] theorem withFetchWord_busy (s : State) (nbits w : Nat) : (s.withFetchWord nbits w).status.busy = true := rfl
@[simp] theorem withFetchWord_turns (s : State) (nbits w : Nat) : (s.withFetchWord nbits w).turns = .sequencer :: s.turns := rfl

/-! ### The buffers after one is replaced -/

@[simp] theorem setBs_tx (m : Memory) (b : BufIdx) (v : BitSeq) : (m.setBs b v).tx = m.tx := rfl
@[simp] theorem setTx_bs (m : Memory) (t : BufIdx) (v : Text) : (m.setTx t v).bs = m.bs := rfl
@[simp] theorem getTx_setBs (m : Memory) (b t : BufIdx) (v : BitSeq) : (m.setBs b v).getTx t = m.getTx t := rfl
@[simp] theorem getBs_setTx (m : Memory) (b t : BufIdx) (v : Text) : (m.setTx t v).getBs b = m.getBs b := rfl

end Sys2Proof.Machine
end

