-- ==== Sys2Proof/Laws/Memory.lean ====
section
/-! SUPPORT. The laws of the buffers: reading after writing, the form of the buffer spaces (Memory.wf) kept by every write,
and what each shared buffer operation can answer. -/

namespace Sys2Proof.Machine

/-! ### Reading after writing -/

theorem getBs_setBs_same (m : Memory) (b : BufIdx) (v : BitSeq) (h : b.toNat < m.bs.length) :
    (m.setBs b v).getBs b = v := by
  simp [Memory.getBs, Memory.setBs, List.getD, h]

theorem getBs_setBs_ne (m : Memory) (a b : BufIdx) (v : BitSeq) (h : a ≠ b) :
    (m.setBs a v).getBs b = m.getBs b := by
  have h' : a.toNat ≠ b.toNat := fun e => h (BitVec.eq_of_toNat_eq e)
  simp [Memory.getBs, Memory.setBs, List.getD, List.getElem?_set_ne h']

theorem getTx_setTx_same (m : Memory) (t : BufIdx) (v : Text) (h : t.toNat < m.tx.length) :
    (m.setTx t v).getTx t = v := by
  simp [Memory.getTx, Memory.setTx, List.getD, h]

theorem getTx_setTx_ne (m : Memory) (a b : BufIdx) (v : Text) (h : a ≠ b) :
    (m.setTx a v).getTx b = m.getTx b := by
  have h' : a.toNat ≠ b.toNat := fun e => h (BitVec.eq_of_toNat_eq e)
  simp [Memory.getTx, Memory.setTx, List.getD, List.getElem?_set_ne h']

/-! ### The form of the buffer spaces -/

theorem memory_reset_wf (p : Params) : Memory.wf p (Memory.reset p) := by
  refine ⟨by simp [Memory.reset], by simp [Memory.reset], ?_, ?_⟩ <;>
    · intro x hx
      simp [Memory.reset, List.mem_replicate] at hx
      simp [hx.2]

theorem state_reset_mem_wf : Memory.wf State.reset.cap State.reset.mem := memory_reset_wf _

theorem setBs_wf {p : Params} {m : Memory} (h : Memory.wf p m) (b : BufIdx) {v : BitSeq} (hv : v.length ≤ p.bcap) :
    Memory.wf p (m.setBs b v) := by
  obtain ⟨h1, h2, h3, h4⟩ := h
  refine ⟨by simpa [Memory.setBs] using h1, h2, ?_, h4⟩
  intro x hx
  rcases List.mem_or_eq_of_mem_set hx with hx | rfl
  · exact h3 x hx
  · exact hv

theorem setTx_wf {p : Params} {m : Memory} (h : Memory.wf p m) (t : BufIdx) {v : Text} (hv : v.length ≤ p.tcap) :
    Memory.wf p (m.setTx t v) := by
  obtain ⟨h1, h2, h3, h4⟩ := h
  refine ⟨h1, by simpa [Memory.setTx] using h2, h3, ?_⟩
  intro x hx
  rcases List.mem_or_eq_of_mem_set hx with hx | rfl
  · exact h4 x hx
  · exact hv

theorem getBs_length_le {p : Params} {m : Memory} (h : Memory.wf p m) (b : BufIdx) : (m.getBs b).length ≤ p.bcap := by
  obtain ⟨-, -, h3, -⟩ := h
  unfold Memory.getBs List.getD
  cases hb : m.bs[b.toNat]? with
  | none => simp
  | some x => exact h3 x (List.mem_of_getElem? hb)

theorem getTx_length_le {p : Params} {m : Memory} (h : Memory.wf p m) (t : BufIdx) : (m.getTx t).length ≤ p.tcap := by
  obtain ⟨-, -, -, h4⟩ := h
  unfold Memory.getTx List.getD
  cases ht : m.tx[t.toNat]? with
  | none => simp
  | some x => exact h4 x (List.mem_of_getElem? ht)

/-! ### What each shared operation can answer -/

theorem appendBits_ok_iff (a : BufIdx) (bits : BitSeq) (s t : State) :
    appendBits a bits s = .ok t ↔
      (s.mem.getBs a).length + bits.length ≤ s.cap.bcap ∧ t = s.putBs a (s.mem.getBs a ++ bits) := by
  unfold appendBits
  split <;> rename_i h
  · simp; omega
  · simp only [Except.ok.injEq]; constructor
    · rintro rfl; exact ⟨by omega, rfl⟩
    · rintro ⟨-, rfl⟩; rfl

theorem appendBits_error_iff (a : BufIdx) (bits : BitSeq) (s : State) (e : Err) :
    appendBits a bits s = .error e ↔ s.cap.bcap < (s.mem.getBs a).length + bits.length ∧ e = .bsFull := by
  unfold appendBits
  split <;> rename_i h <;> simp [h, eq_comm]

theorem storeBits_ok_iff (a : BufIdx) (out : BitSeq) (s t : State) :
    storeBits a out s = .ok t ↔ out.length ≤ s.cap.bcap ∧ t = s.putBs a out := by
  unfold storeBits
  split <;> rename_i h
  · simp; omega
  · simp only [Except.ok.injEq]; constructor
    · rintro rfl; exact ⟨by omega, rfl⟩
    · rintro ⟨-, rfl⟩; rfl

theorem storeBits_error_iff (a : BufIdx) (out : BitSeq) (s : State) (e : Err) :
    storeBits a out s = .error e ↔ s.cap.bcap < out.length ∧ e = .bsFull := by
  unfold storeBits
  split <;> rename_i h <;> simp [h, eq_comm]

theorem storeText_ok_iff (t : BufIdx) (out : Except Err Text) (s u : State) :
    storeText t out s = .ok u ↔ ∃ x, out = .ok x ∧ u = s.putTx t x := by
  unfold storeText
  cases out <;> simp [eq_comm]

theorem storeText_error_iff (t : BufIdx) (out : Except Err Text) (s : State) (e : Err) :
    storeText t out s = .error e ↔ out = .error e := by
  unfold storeText
  cases out <;> simp

theorem emitSym_ok_iff (room : Nat) (c : Byte) (rest : Nat → Except Err Text) (out : Text) :
    emitSym room c rest = .ok out ↔ ∃ r o, room = r + 1 ∧ rest r = .ok o ∧ out = c :: o := by
  unfold emitSym
  cases room with
  | zero => simp
  | succ r => cases h : rest r <;> simp [h, eq_comm]

end Sys2Proof.Machine
end

