-- ==== Sys2Proof/Laws/Completion.lean ====
section
/-! SUPPORT. How a command ends (60_exceptions.md R303, R313), and what the tests before a command's own let through. -/

namespace Sys2Proof.Machine

/-! ### finish: a command always ends in a next state -/

theorem finish_ok (s s' : State) : finish s (.ok s') = .next (complete none s') := rfl

theorem finish_error (s : State) (e : Err) : finish s (.error e) = .next (complete (some e) s) := rfl

/-- Everything the end of a command can be: an OK completion of its effects, or an error's completion of the state it
began in. -/
theorem finish_cases {s t : State} {r : Except Err State} (h : finish s r = .next t) :
    (∃ s', r = .ok s' ∧ t = complete none s') ∨ (∃ e, r = .error e ∧ t = complete (some e) s) := by
  cases r with
  | ok s' => exact .inl ⟨s', rfl, by simpa [finish_ok, eq_comm] using h⟩
  | error e => exact .inr ⟨e, rfl, by simpa [finish_error, eq_comm] using h⟩

theorem finish_answers_next (s : State) (r : Except Err State) : ∃ t, finish s r = .next t := by
  cases r <;> exact ⟨_, rfl⟩

/-- No error has kind OK (R300). -/
theorem errKind_ne_zero (e : Err) : errKind e ≠ 0 := by cases e <;> decide

/-- No error has detail 0x00 (R301). -/
theorem errDetail_ne_zero (e : Err) : errDetail e ≠ 0 := by cases e <;> decide

theorem kindOf_eq_zero_iff (r : Option Err) : kindOf r = 0 ↔ r = none := by
  cases r with
  | none => simp [kindOf]
  | some e => simpa [kindOf] using errKind_ne_zero e

theorem detailOf_eq_zero_iff (r : Option Err) : detailOf r = 0 ↔ r = none := by
  cases r with
  | none => simp [detailOf]
  | some e => simpa [detailOf] using errDetail_ne_zero e

/-- Completion touches STATUS and CMDCOUNT and nothing else. -/
theorem complete_eq (r : Option Err) (s : State) :
    complete r s = { s with status := (complete r s).status, cmdCount := s.cmdCount + 1 } := rfl

/-! ### The tests before a command's own (60_exceptions.md R310) -/

theorem withBs_ok_iff {s t : State} {a : BufIdx} {k : Except Err State} :
    withBs s a k = .ok t ↔ a.toNat < s.cap.nbs ∧ k = .ok t := by
  unfold withBs; split <;> simp [*]

theorem withTx_ok_iff {s t : State} {a : BufIdx} {k : Except Err State} :
    withTx s a k = .ok t ↔ a.toNat < s.cap.ntb ∧ k = .ok t := by
  unfold withTx; split <;> simp [*]

theorem withTable_ok_iff {s t : State} {k : Except Err State} :
    withTable s k = .ok t ↔ s.table.valid = true ∧ k = .ok t := by
  unfold withTable; split <;> simp [*]

theorem withEom_ok_iff {s t : State} {k : Except Err State} :
    withEom s k = .ok t ↔ (s.table.indexOf s.eom).isSome = true ∧ k = .ok t := by
  unfold withEom; split <;> simp_all

theorem withState_ok_iff {v : Bool} {t : State} {k : Except Err State} :
    withState v k = .ok t ↔ v = true ∧ k = .ok t := by
  unfold withState; split <;> simp [*]

theorem withLookup_ok_iff {s t : State} {msg : Text} {k : List Nat → Except Err State} :
    withLookup s msg k = .ok t ↔ ∃ idx, s.table.lookupAll msg = some idx ∧ k idx = .ok t := by
  unfold withLookup; cases s.table.lookupAll msg <;> simp

@[simp] theorem withBs_pos {s : State} {a : BufIdx} (h : a.toNat < s.cap.nbs) (k : Except Err State) :
    withBs s a k = k := if_pos h

@[simp] theorem withTx_pos {s : State} {a : BufIdx} (h : a.toNat < s.cap.ntb) (k : Except Err State) :
    withTx s a k = k := if_pos h

@[simp] theorem withTable_pos {s : State} (h : s.table.valid = true) (k : Except Err State) : withTable s k = k :=
  if_pos h

@[simp] theorem withEom_pos {s : State} (h : (s.table.indexOf s.eom).isSome = true) (k : Except Err State) :
    withEom s k = k := if_pos h

@[simp] theorem withState_pos {v : Bool} (h : v = true) (k : Except Err State) : withState v k = k := if_pos h

theorem withLookup_some {s : State} {msg : Text} {idx : List Nat} (h : s.table.lookupAll msg = some idx)
    (k : List Nat → Except Err State) : withLookup s msg k = k idx := by
  simp [withLookup, h]

/-! ### Lookups (R16, R173) -/

theorem indexOf_some_iff {t : Table} {c : Byte} {i : Nat} :
    t.indexOf c = some i ↔
      ∃ h : i < t.syms.length, t.syms[i] = c ∧ ∀ j (hj : j < i), t.syms[j]'(Nat.lt_trans hj h) ≠ c := by
  unfold Table.indexOf
  rw [List.findIdx?_eq_some_iff_getElem]
  simp

theorem indexOf_none_iff {t : Table} {c : Byte} : t.indexOf c = none ↔ c ∉ t.syms := by
  unfold Table.indexOf
  rw [List.findIdx?_eq_none_iff]
  constructor
  · intro h hc; simpa using h c hc
  · intro h x hx; simp; rintro rfl; exact h hx

theorem lookupAll_some_iff {t : Table} {msg : Text} {idx : List Nat} :
    t.lookupAll msg = some idx ↔ List.Forall₂ (fun c i => t.indexOf c = some i) msg idx := by
  induction msg generalizing idx with
  | nil => cases idx <;> simp [Table.lookupAll]
  | cons c cs ih =>
    cases hc : t.indexOf c with
    | none =>
      have h : t.lookupAll (c :: cs) = none := by simp [Table.lookupAll, hc]
      rw [h]
      constructor
      · intro h'; cases h'
      · intro h'; cases h' with
        | cons h1 _ => rw [hc] at h1; cases h1
    | some i =>
      cases hcs : t.lookupAll cs with
      | none =>
        have h : t.lookupAll (c :: cs) = none := by simp [Table.lookupAll, hc, hcs]
        rw [h]
        constructor
        · intro h'; cases h'
        · intro h'; cases h' with
          | cons _ h2 => rw [ih.mpr h2] at hcs; cases hcs
      | some is =>
        have h : t.lookupAll (c :: cs) = some (i :: is) := by simp [Table.lookupAll, hc, hcs]
        rw [h]
        constructor
        · rintro ⟨⟩; exact .cons hc (ih.mp hcs)
        · intro h'; cases h' with
          | cons h1 h2 => rw [hc] at h1; rw [ih.mpr h2] at hcs; cases h1; cases hcs; rfl

theorem lookupAll_length {t : Table} {msg : Text} {idx : List Nat} (h : t.lookupAll msg = some idx) :
    idx.length = msg.length := (lookupAll_some_iff.mp h).length_eq.symm

end Sys2Proof.Machine
end

