-- ==== Sys2Proof/Laws/Numbers.lean ====
section
/-! SUPPORT. The laws of the integers and sequences of 00_scope.md R10 to R13, R18 and of the bit groups and arrays. -/

namespace Sys2Proof.Machine

/-! ### UBits and UVal (R10) -/

@[simp] theorem uBits_length (v w : Nat) : (uBits v w).length = w := by
  induction w with
  | zero => rfl
  | succ w ih => simp [uBits, ih]

theorem uVal_from (acc : Nat) (bs : BitSeq) :
    bs.foldl (fun acc b => 2 * acc + b.toNat) acc = acc * 2 ^ bs.length + uVal bs := by
  induction bs generalizing acc with
  | nil => simp [uVal]
  | cons b bs ih =>
    simp only [uVal, List.foldl_cons, List.length_cons, ih (2 * acc + b.toNat), ih (2 * 0 + b.toNat)]
    ring

@[simp] theorem uVal_nil : uVal [] = 0 := rfl

theorem uVal_cons (b : Bool) (bs : BitSeq) : uVal (b :: bs) = b.toNat * 2 ^ bs.length + uVal bs := by
  have h := uVal_from (2 * 0 + b.toNat) bs
  simpa [uVal] using h

theorem uVal_lt (bs : BitSeq) : uVal bs < 2 ^ bs.length := by
  induction bs with
  | nil => simp
  | cons b bs ih =>
    rw [uVal_cons, List.length_cons, pow_succ]
    cases b <;> simp <;> omega

theorem uVal_uBits_mod (v w : Nat) : uVal (uBits v w) = v % 2 ^ w := by
  induction w with
  | zero => simp [uBits, Nat.mod_one]
  | succ w ih =>
    rw [uBits, uVal_cons, uBits_length, ih, Nat.toNat_testBit, Nat.mod_pow_succ, add_comm, mul_comm]

theorem uVal_uBits {v w : Nat} (h : v < 2 ^ w) : uVal (uBits v w) = v := by
  rw [uVal_uBits_mod, Nat.mod_eq_of_lt h]

/-! ### clog2 (R11) -/

theorem clog2_of_le_one {x : Nat} (h : x ≤ 1) : clog2 x = 0 := by simp [clog2, h]

theorem le_two_pow_clog2 (x : Nat) : x ≤ 2 ^ clog2 x := by
  unfold clog2
  split <;> rename_i h
  · simpa using h
  · have := Nat.lt_log2_self (n := x - 1)
    omega

theorem clog2_le_of_le_two_pow {x k : Nat} (h : x ≤ 2 ^ k) : clog2 x ≤ k := by
  unfold clog2
  split <;> rename_i hx
  · omega
  · by_contra hk
    have h1 : k ≤ Nat.log2 (x - 1) := by omega
    have h2 : 2 ^ k ≤ 2 ^ Nat.log2 (x - 1) := Nat.pow_le_pow_right (by omega) h1
    have h3 : 2 ^ Nat.log2 (x - 1) ≤ x - 1 := Nat.log2_self_le (by omega)
    omega

/-! ### ICbrt (R13) -/

theorem iCbrt_cube_le (n : Nat) : iCbrt n ^ 3 ≤ n := by
  have h := Nat.findGreatest_spec (P := fun w => w ^ 3 ≤ n) (Nat.zero_le n) (by simp)
  exact h

theorem le_iCbrt {n w : Nat} (h : w ^ 3 ≤ n) : w ≤ iCbrt n := by
  refine Nat.le_findGreatest ?_ h
  calc w ≤ w ^ 3 := Nat.le_self_pow (by omega) w
    _ ≤ n := h

theorem iCbrt_pos {n : Nat} (h : 1 ≤ n) : 1 ≤ iCbrt n := le_iCbrt (by simpa using h)

/-! ### StableSortDesc (R18) -/

theorem stableSortDesc_perm (ws : List Nat) : (stableSortDesc ws).Perm (List.range ws.length) :=
  List.perm_insertionSort _ _

@[simp] theorem stableSortDesc_length (ws : List Nat) : (stableSortDesc ws).length = ws.length := by
  simpa using (stableSortDesc_perm ws).length_eq

theorem mem_stableSortDesc {ws : List Nat} {i : Nat} : i ∈ stableSortDesc ws ↔ i < ws.length := by
  simpa using (stableSortDesc_perm ws).mem_iff (a := i)

/-! ### Groups of bits -/

@[simp] theorem bitGroups_length (w k : Nat) (bs : BitSeq) : (bitGroups w k bs).length = k := by
  induction k generalizing bs with
  | zero => rfl
  | succ k ih => simp [bitGroups, ih]

/-- Fields of one width laid out in order are read back as they were. -/
theorem bitGroups_flatMap_uBits (w : Nat) (vs : List Nat) :
    bitGroups w vs.length (vs.flatMap (fun v => uBits v w)) = vs.map (fun v => uBits v w) := by
  induction vs with
  | nil => rfl
  | cons v vs ih =>
    have h : (uBits v w).length = w := uBits_length v w
    simp only [List.length_cons, List.flatMap_cons, List.map_cons, bitGroups]
    rw [List.take_append_of_le_length (by simp), List.drop_append_of_le_length (by simp)]
    rw [List.take_of_length_le (by simp), List.drop_of_length_le (by simp), List.nil_append, ih]

theorem flatMap_uBits_length (w : Nat) (vs : List Nat) :
    (vs.flatMap (fun v => uBits v w)).length = vs.length * w := by
  induction vs with
  | nil => simp
  | cons v vs ih => simp [ih]; ring

@[simp] theorem textBits_length (t : Text) : (textBits t).length = 8 * t.length := by
  induction t with
  | nil => rfl
  | cons c cs ih =>
    have h : textBits (c :: cs) = uBits c.toNat 8 ++ textBits cs := rfl
    rw [h, List.length_append, ih]; simp; ring

/-! ### Arrays -/

theorem fillVec_toList {α : Type} (m : Nat) (d : α) (l : List α) :
    (fillVec m d l).toList = (l ++ List.replicate m d).take m := by
  simp [fillVec, Vector.toList]

theorem fillVec_getD_of_lt {α : Type} {m i : Nat} {d x : α} {l : List α} (hi : i < l.length) (hm : i < m) :
    (fillVec m d l).toList.getD i x = l[i] := by
  rw [fillVec_toList]
  simp [List.getD, hm, hi]

end Sys2Proof.Machine
end

