-- ==== Sys2Proof/Laws/Commands.lean ====
section
/-! SUPPORT. Every command is the completion of its rule: `exec i s = finish s (ruleOf i s)`, so a statement about all
commands is one about their rules and `finish`. Then what the rules that have a shape in common can answer. -/

namespace Sys2Proof.Machine

/-- The rule of a command, before its completion. -/
def ruleOf (i : Instr) (s : State) : Except Err State :=
  match i with
  | .nop => ruleNop s
  | .regRd => ruleRegRd s
  | .regWr => ruleRegWr s
  | .bsClear a => ruleBsClear a s
  | .bsAppb a => ruleBsAppb a s
  | .bsAppu8 a => ruleBsAppu 8 a s
  | .bsAppu16 a => ruleBsAppu 16 a s
  | .bsAppu32 a => ruleBsAppu 32 a s
  | .bsAppu64 a => ruleBsAppu 64 a s
  | .bsCat a b => ruleBsCat a b s
  | .bsAppt a b => ruleBsAppt a b s
  | .bsPop a => ruleBsPop a s
  | .bsGet a => ruleBsGet a s
  | .bsSet a => ruleBsSet a s
  | .bsLen a => ruleBsLen a s
  | .bsRender a b => ruleBsRender a b s
  | .txClear a => ruleTxClear a s
  | .txPush a => ruleTxPush a s
  | .txGet a => ruleTxGet a s
  | .txSet a => ruleTxSet a s
  | .txLen a => ruleTxLen a s
  | .stStage => ruleStStage s
  | .stBuild => ruleStBuild s
  | .stSize => ruleStSize s
  | .stSymat => ruleStSymat s
  | .stIndexof => ruleStIndexof s
  | .stProbat => ruleStProbat s
  | .encFixed a b => ruleEncFixed a b s
  | .decFixed a b => ruleDecFixed a b s
  | .avgFixed => ruleAvgFixed s
  | .encBlock a b => ruleEncBlock a b s
  | .decBlock a b => ruleDecBlock a b s
  | .avgBlock => ruleAvgBlock s
  | .encHuf a b => ruleEncHuf a b s
  | .decHuf a b => ruleDecHuf a b s
  | .avgHuf => ruleAvgHuf s
  | .prepHuf => rulePrepHuf s
  | .encSf a b => ruleEncSf a b s
  | .decSf a b => ruleDecSf a b s
  | .avgSf => ruleAvgSf s
  | .prepSf => rulePrepSf s
  | .encArith a b => ruleEncArith a b s
  | .decArith a b => ruleDecArith a b s
  | .prepArith => rulePrepArith s
  | .encLz77 a b => ruleEncLz77 a b s
  | .decLz77 a b => ruleDecLz77 a b s
  | .encLzw a b => ruleEncLzw a b s
  | .decLzw a b => ruleDecLzw a b s

theorem exec_eq_finish (i : Instr) (s : State) : exec i s = finish s (ruleOf i s) := by
  cases i <;> rfl

/-! ### Rules that append to a bit-stream buffer (42_bitstream.md R131 to R137) -/

theorem ruleBsAppb_ok_iff {a : BufIdx} {s t : State} :
    ruleBsAppb a s = .ok t ↔ a.toNat < s.cap.nbs ∧ (s.mem.getBs a).length + 1 ≤ s.cap.bcap ∧
      t = s.putBs a (s.mem.getBs a ++ [arg0Bit s]) := by
  simp [ruleBsAppb, withBs_ok_iff, appendBits_ok_iff]

theorem ruleBsAppu_ok_iff {w : Nat} {a : BufIdx} {s t : State} :
    ruleBsAppu w a s = .ok t ↔ a.toNat < s.cap.nbs ∧ (s.mem.getBs a).length + w ≤ s.cap.bcap ∧
      t = s.putBs a (s.mem.getBs a ++ uBits (arg0Low w s) w) := by
  simp [ruleBsAppu, withBs_ok_iff, appendBits_ok_iff]

theorem ruleBsCat_ok_iff {a b : BufIdx} {s t : State} :
    ruleBsCat a b s = .ok t ↔ a.toNat < s.cap.nbs ∧ b.toNat < s.cap.nbs ∧
      (s.mem.getBs a).length + (s.mem.getBs b).length ≤ s.cap.bcap ∧
      t = s.putBs a (s.mem.getBs a ++ s.mem.getBs b) := by
  simp [ruleBsCat, withBs_ok_iff, appendBits_ok_iff]

theorem ruleBsAppt_ok_iff {a b : BufIdx} {s t : State} :
    ruleBsAppt a b s = .ok t ↔ a.toNat < s.cap.nbs ∧ b.toNat < s.cap.ntb ∧
      (s.mem.getBs a).length + (textBits (s.mem.getTx b)).length ≤ s.cap.bcap ∧
      t = s.putBs a (s.mem.getBs a ++ textBits (s.mem.getTx b)) := by
  simp [ruleBsAppt, withBs_ok_iff, withTx_ok_iff, appendBits_ok_iff]

/-! ### Encoders: what a success commits (44_fixed_block.md R170) -/

theorem ruleEncFixed_ok_iff {a b : BufIdx} {s t : State} :
    ruleEncFixed a b s = .ok t ↔ a.toNat < s.cap.nbs ∧ b.toNat < s.cap.ntb ∧
      (textBits (s.mem.getTx b)).length ≤ s.cap.bcap ∧ t = s.putBs a (textBits (s.mem.getTx b)) := by
  simp [ruleEncFixed, withBs_ok_iff, withTx_ok_iff, storeBits_ok_iff]

theorem ruleEncBlock_ok_iff {a b : BufIdx} {s t : State} :
    ruleEncBlock a b s = .ok t ↔ a.toNat < s.cap.nbs ∧ b.toNat < s.cap.ntb ∧ s.table.valid = true ∧
      ∃ idx, s.table.lookupAll (s.mem.getTx b) = some idx ∧
        (blockBits (blockWidth s.table) idx).length ≤ s.cap.bcap ∧
        t = s.putBs a (blockBits (blockWidth s.table) idx) := by
  simp [ruleEncBlock, withBs_ok_iff, withTx_ok_iff, withTable_ok_iff, withLookup_ok_iff, storeBits_ok_iff]

theorem ruleEncHuf_ok_iff {a b : BufIdx} {s t : State} :
    ruleEncHuf a b s = .ok t ↔ a.toNat < s.cap.nbs ∧ b.toNat < s.cap.ntb ∧ s.table.valid = true ∧
      ∃ idx, s.table.lookupAll (s.mem.getTx b) = some idx ∧
        (hufEncode (hufBuild s.table) idx).length ≤ s.cap.bcap ∧
        t = { s with huf := hufBuild s.table, valid := { s.valid with huf := true } }.putBs a
          (hufEncode (hufBuild s.table) idx) := by
  simp [ruleEncHuf, withBs_ok_iff, withTx_ok_iff, withTable_ok_iff, withLookup_ok_iff, storeBits_ok_iff]

theorem ruleEncSf_ok_iff {a b : BufIdx} {s t : State} :
    ruleEncSf a b s = .ok t ↔ a.toNat < s.cap.nbs ∧ b.toNat < s.cap.ntb ∧ s.table.valid = true ∧
      ∃ idx, s.table.lookupAll (s.mem.getTx b) = some idx ∧
        (idx.any fun i => (sfBuild s.table).lenAt i == 0) = false ∧
        (sfEncode (sfBuild s.table) idx).length ≤ s.cap.bcap ∧
        t = { s with sf := sfBuild s.table, valid := { s.valid with sf := true } }.putBs a
          (sfEncode (sfBuild s.table) idx) := by
  simp only [ruleEncSf, withBs_ok_iff, withTx_ok_iff, withTable_ok_iff, withLookup_ok_iff]
  refine and_congr_right fun _ => and_congr_right fun _ => and_congr_right fun _ =>
    exists_congr fun idx => and_congr_right fun _ => ?_
  cases h : idx.any fun i => (sfBuild s.table).lenAt i == 0 <;> simp [storeBits_ok_iff]

theorem ruleEncArith_ok_iff {a b : BufIdx} {s t : State} :
    ruleEncArith a b s = .ok t ↔ a.toNat < s.cap.nbs ∧ b.toNat < s.cap.ntb ∧ s.table.valid = true ∧
      (s.table.indexOf s.eom).isSome = true ∧
      ∃ idx, s.table.lookupAll (arMessage s.eom (s.mem.getTx b)) = some idx ∧
      ∃ out, arEncode (arBuild s.table) s.table.total idx = .ok out ∧ out.length ≤ s.cap.bcap ∧
        t = { s with ar := arBuild s.table, valid := { s.valid with arith := true } }.putBs a out := by
  simp only [ruleEncArith, withBs_ok_iff, withTx_ok_iff, withTable_ok_iff, withEom_ok_iff, withLookup_ok_iff]
  refine and_congr_right fun _ => and_congr_right fun _ => and_congr_right fun _ => and_congr_right fun _ =>
    exists_congr fun idx => and_congr_right fun _ => ?_
  cases arEncode (arBuild s.table) s.table.total idx <;> simp [storeBits_ok_iff]

theorem ruleEncLz77_ok_iff {a b : BufIdx} {s t : State} :
    ruleEncLz77 a b s = .ok t ↔ a.toNat < s.cap.nbs ∧ b.toNat < s.cap.ntb ∧ s.table.valid = true ∧
      ∃ idx, s.table.lookupAll (s.mem.getTx b) = some idx ∧
        (lzEncode s.table (s.mem.getTx b) idx).length ≤ s.cap.bcap ∧
        t = { s with lz77Window := BitVec.ofNat 32 (lzWindow (s.mem.getTx b).length)
                     lz77Lookahead := BitVec.ofNat 32 (lzLookahead (s.mem.getTx b).length)
                     valid := { s.valid with lz77 := true } }.putBs a (lzEncode s.table (s.mem.getTx b) idx) := by
  simp [ruleEncLz77, withBs_ok_iff, withTx_ok_iff, withTable_ok_iff, withLookup_ok_iff, storeBits_ok_iff]

theorem ruleEncLzw_ok_iff {a b : BufIdx} {s t : State} :
    ruleEncLzw a b s = .ok t ↔ a.toNat < s.cap.nbs ∧ b.toNat < s.cap.ntb ∧ s.table.valid = true ∧
      (s.table.indexOf s.eom).isSome = true ∧
      (∃ idx, s.table.lookupAll (lzwMessage s.eom (s.mem.getTx b)) = some idx) ∧
      (lzwEncode s.table (lzwMessage s.eom (s.mem.getTx b))).1.length ≤ s.cap.bcap ∧
      t = { s with
            lzwBlocksize := BitVec.ofNat 6 (lzwEncode s.table (lzwMessage s.eom (s.mem.getTx b))).2.1
            lzwDictsize := BitVec.ofNat 64 (lzwEncode s.table (lzwMessage s.eom (s.mem.getTx b))).2.2
            valid := { s.valid with lzw := true } }.putBs a
              (lzwEncode s.table (lzwMessage s.eom (s.mem.getTx b))).1 := by
  simp [ruleEncLzw, withBs_ok_iff, withTx_ok_iff, withTable_ok_iff, withEom_ok_iff, withLookup_ok_iff, storeBits_ok_iff]

/-! ### Decoders: what a success commits (R171) -/

theorem ruleDecFixed_ok_iff {a b : BufIdx} {s t : State} :
    ruleDecFixed a b s = .ok t ↔ a.toNat < s.cap.ntb ∧ b.toNat < s.cap.nbs ∧
      ∃ x, decodeFixed s.cap.tcap (s.mem.getBs b) = .ok x ∧ t = s.putTx a x := by
  simp [ruleDecFixed, withBs_ok_iff, withTx_ok_iff, storeText_ok_iff]

theorem ruleDecBlock_ok_iff {a b : BufIdx} {s t : State} :
    ruleDecBlock a b s = .ok t ↔ a.toNat < s.cap.ntb ∧ b.toNat < s.cap.nbs ∧ s.table.valid = true ∧
      ∃ x, decodeBlock s.table s.cap.tcap (s.mem.getBs b) = .ok x ∧ t = s.putTx a x := by
  simp [ruleDecBlock, withBs_ok_iff, withTx_ok_iff, withTable_ok_iff, storeText_ok_iff]

theorem ruleDecHuf_ok_iff {a b : BufIdx} {s t : State} :
    ruleDecHuf a b s = .ok t ↔ a.toNat < s.cap.ntb ∧ b.toNat < s.cap.nbs ∧ s.table.valid = true ∧ s.valid.huf = true ∧
      ∃ x, hufDecode s.huf s.table s.cap.tcap (s.mem.getBs b) = .ok x ∧ t = s.putTx a x := by
  simp [ruleDecHuf, withBs_ok_iff, withTx_ok_iff, withTable_ok_iff, withState_ok_iff, storeText_ok_iff]

theorem ruleDecSf_ok_iff {a b : BufIdx} {s t : State} :
    ruleDecSf a b s = .ok t ↔ a.toNat < s.cap.ntb ∧ b.toNat < s.cap.nbs ∧ s.table.valid = true ∧ s.valid.sf = true ∧
      ∃ x, sfDecode s.sf s.table (s.mem.getBs b) (sfCandidates s.sf s.table) [] s.cap.tcap = .ok x ∧
        t = s.putTx a x := by
  simp [ruleDecSf, withBs_ok_iff, withTx_ok_iff, withTable_ok_iff, withState_ok_iff, storeText_ok_iff]

theorem ruleDecArith_ok_iff {a b : BufIdx} {s t : State} :
    ruleDecArith a b s = .ok t ↔ a.toNat < s.cap.ntb ∧ b.toNat < s.cap.nbs ∧ s.table.valid = true ∧
      (s.table.indexOf s.eom).isSome = true ∧ s.valid.arith = true ∧
      ∃ x, arDecode s.ar s.table s.eom s.cap.tcap arStart
          (BitFeed.fill Config.precision { v := 0, rest := s.mem.getBs b }) = .ok x ∧ t = s.putTx a x := by
  simp [ruleDecArith, withBs_ok_iff, withTx_ok_iff, withTable_ok_iff, withEom_ok_iff, withState_ok_iff,
    storeText_ok_iff]

theorem ruleDecLz77_ok_iff {a b : BufIdx} {s t : State} :
    ruleDecLz77 a b s = .ok t ↔ a.toNat < s.cap.ntb ∧ b.toNat < s.cap.nbs ∧ s.table.valid = true ∧
      s.valid.lz77 = true ∧
      ∃ x, lzDecode s.table s.lz77Window.toNat s.lz77Lookahead.toNat s.cap.tcap (s.mem.getBs b) = .ok x ∧
        t = s.putTx a x := by
  simp [ruleDecLz77, withBs_ok_iff, withTx_ok_iff, withTable_ok_iff, withState_ok_iff, storeText_ok_iff]

theorem ruleDecLzw_ok_iff {a b : BufIdx} {s t : State} :
    ruleDecLzw a b s = .ok t ↔ a.toNat < s.cap.ntb ∧ b.toNat < s.cap.nbs ∧ s.table.valid = true ∧
      (s.table.indexOf s.eom).isSome = true ∧ s.valid.lzw = true ∧
      ∃ r, lzwDecode s.table s.lzwBlocksize.toNat s.cap.tcap (s.mem.getBs b) = .ok r ∧
        t = { s.putTx a r.1 with lzwDictsize := BitVec.ofNat 64 r.2 } := by
  simp only [ruleDecLzw, withBs_ok_iff, withTx_ok_iff, withTable_ok_iff, withEom_ok_iff, withState_ok_iff]
  refine and_congr_right fun _ => and_congr_right fun _ => and_congr_right fun _ => and_congr_right fun _ =>
    and_congr_right fun _ => ?_
  cases lzwDecode s.table s.lzwBlocksize.toNat s.cap.tcap (s.mem.getBs b) <;> simp [eq_comm]

/-! ### Builders (R203, R223, R247) -/

theorem rulePrepHuf_ok_iff {s t : State} :
    rulePrepHuf s = .ok t ↔ s.table.valid = true ∧
      t = { s with huf := hufBuild s.table, valid := { s.valid with huf := true } } := by
  rw [rulePrepHuf, withTable_ok_iff]
  exact and_congr_right fun _ => ⟨fun h => by injection h with h; exact h.symm, fun h => by rw [h]⟩

theorem rulePrepSf_ok_iff {s t : State} :
    rulePrepSf s = .ok t ↔ s.table.valid = true ∧
      t = { s with sf := sfBuild s.table, valid := { s.valid with sf := true } } := by
  rw [rulePrepSf, withTable_ok_iff]
  exact and_congr_right fun _ => ⟨fun h => by injection h with h; exact h.symm, fun h => by rw [h]⟩

theorem rulePrepArith_ok_iff {s t : State} :
    rulePrepArith s = .ok t ↔ s.table.valid = true ∧
      t = { s with ar := arBuild s.table, valid := { s.valid with arith := true } } := by
  rw [rulePrepArith, withTable_ok_iff]
  exact and_congr_right fun _ => ⟨fun h => by injection h with h; exact h.symm, fun h => by rw [h]⟩

end Sys2Proof.Machine
end

