-- ==== Sys2Proof/Laws/PerInstr.lean ====
section
/-! SUPPORT. Laws said once for every command, as syntax: what its encoded word holds in each field (30_encoding.md R80,
R81). -/

namespace Sys2Proof

/-! ### The fields of an assembled word (R80) -/

theorem assemble_toNat (c : BitVec 4) (b a : BufIdx) (o : BitVec 8) :
    (assemble c b a o).toNat = o.toNat + 2 ^ 8 * a.toNat + 2 ^ 12 * b.toNat + 2 ^ 16 * c.toNat := by
  simp only [assemble, BitVec.toNat_ofNat]
  omega

theorem opcField_assemble (c : BitVec 4) (b a : BufIdx) (o : BitVec 8) : opcField (assemble c b a o) = o := by
  apply BitVec.eq_of_toNat_eq
  simp only [opcField, BitVec.extractLsb'_toNat, assemble_toNat, Nat.shiftRight_eq_div_pow]
  omega

theorem aField_assemble (c : BitVec 4) (b a : BufIdx) (o : BitVec 8) : aField (assemble c b a o) = a := by
  apply BitVec.eq_of_toNat_eq
  simp only [aField, BitVec.extractLsb'_toNat, assemble_toNat, Nat.shiftRight_eq_div_pow]
  omega

theorem bField_assemble (c : BitVec 4) (b a : BufIdx) (o : BitVec 8) : bField (assemble c b a o) = b := by
  apply BitVec.eq_of_toNat_eq
  simp only [bField, BitVec.extractLsb'_toNat, assemble_toNat, Nat.shiftRight_eq_div_pow]
  omega

theorem cField_assemble (c : BitVec 4) (b a : BufIdx) (o : BitVec 8) : cField (assemble c b a o) = c := by
  apply BitVec.eq_of_toNat_eq
  simp only [cField, BitVec.extractLsb'_toNat, assemble_toNat, Nat.shiftRight_eq_div_pow]
  omega

theorem rsvField_assemble (c : BitVec 4) (b a : BufIdx) (o : BitVec 8) : rsvField (assemble c b a o) = 0 := by
  apply BitVec.eq_of_toNat_eq
  simp only [rsvField, BitVec.extractLsb'_toNat, assemble_toNat, Nat.shiftRight_eq_div_pow]
  simp
  omega

end Sys2Proof

namespace Sys2Proof.Laws.EncodedFields

/-- The encoded word of a command is an assembled word of codec 0 to 6: RSV is 0 and C is no reserved codec number (R80,
R84). -/
def Statement (i : Instr) : Prop :=
  ∃ c : BitVec 4, c.toNat ≤ 6 ∧ ∃ b a : BufIdx, ∃ o : BitVec 8, encode i = assemble c b a o

theorem nop : Statement .nop := ⟨_, by decide, _, _, _, rfl⟩
theorem regRd : Statement .regRd := ⟨_, by decide, _, _, _, rfl⟩
theorem regWr : Statement .regWr := ⟨_, by decide, _, _, _, rfl⟩
theorem bsClear (a : BufIdx) : Statement (.bsClear a) := ⟨_, by decide, _, _, _, rfl⟩
theorem bsAppb (a : BufIdx) : Statement (.bsAppb a) := ⟨_, by decide, _, _, _, rfl⟩
theorem bsAppu8 (a : BufIdx) : Statement (.bsAppu8 a) := ⟨_, by decide, _, _, _, rfl⟩
theorem bsAppu16 (a : BufIdx) : Statement (.bsAppu16 a) := ⟨_, by decide, _, _, _, rfl⟩
theorem bsAppu32 (a : BufIdx) : Statement (.bsAppu32 a) := ⟨_, by decide, _, _, _, rfl⟩
theorem bsAppu64 (a : BufIdx) : Statement (.bsAppu64 a) := ⟨_, by decide, _, _, _, rfl⟩
theorem bsCat (a b : BufIdx) : Statement (.bsCat a b) := ⟨_, by decide, _, _, _, rfl⟩
theorem bsAppt (a b : BufIdx) : Statement (.bsAppt a b) := ⟨_, by decide, _, _, _, rfl⟩
theorem bsPop (a : BufIdx) : Statement (.bsPop a) := ⟨_, by decide, _, _, _, rfl⟩
theorem bsGet (a : BufIdx) : Statement (.bsGet a) := ⟨_, by decide, _, _, _, rfl⟩
theorem bsSet (a : BufIdx) : Statement (.bsSet a) := ⟨_, by decide, _, _, _, rfl⟩
theorem bsLen (a : BufIdx) : Statement (.bsLen a) := ⟨_, by decide, _, _, _, rfl⟩
theorem bsRender (a b : BufIdx) : Statement (.bsRender a b) := ⟨_, by decide, _, _, _, rfl⟩
theorem txClear (a : BufIdx) : Statement (.txClear a) := ⟨_, by decide, _, _, _, rfl⟩
theorem txPush (a : BufIdx) : Statement (.txPush a) := ⟨_, by decide, _, _, _, rfl⟩
theorem txGet (a : BufIdx) : Statement (.txGet a) := ⟨_, by decide, _, _, _, rfl⟩
theorem txSet (a : BufIdx) : Statement (.txSet a) := ⟨_, by decide, _, _, _, rfl⟩
theorem txLen (a : BufIdx) : Statement (.txLen a) := ⟨_, by decide, _, _, _, rfl⟩
theorem stStage : Statement .stStage := ⟨_, by decide, _, _, _, rfl⟩
theorem stBuild : Statement .stBuild := ⟨_, by decide, _, _, _, rfl⟩
theorem stSize : Statement .stSize := ⟨_, by decide, _, _, _, rfl⟩
theorem stSymat : Statement .stSymat := ⟨_, by decide, _, _, _, rfl⟩
theorem stIndexof : Statement .stIndexof := ⟨_, by decide, _, _, _, rfl⟩
theorem stProbat : Statement .stProbat := ⟨_, by decide, _, _, _, rfl⟩
theorem encFixed (a b : BufIdx) : Statement (.encFixed a b) := ⟨_, by decide, _, _, _, rfl⟩
theorem decFixed (a b : BufIdx) : Statement (.decFixed a b) := ⟨_, by decide, _, _, _, rfl⟩
theorem avgFixed : Statement .avgFixed := ⟨_, by decide, _, _, _, rfl⟩
theorem encBlock (a b : BufIdx) : Statement (.encBlock a b) := ⟨_, by decide, _, _, _, rfl⟩
theorem decBlock (a b : BufIdx) : Statement (.decBlock a b) := ⟨_, by decide, _, _, _, rfl⟩
theorem avgBlock : Statement .avgBlock := ⟨_, by decide, _, _, _, rfl⟩
theorem encHuf (a b : BufIdx) : Statement (.encHuf a b) := ⟨_, by decide, _, _, _, rfl⟩
theorem decHuf (a b : BufIdx) : Statement (.decHuf a b) := ⟨_, by decide, _, _, _, rfl⟩
theorem avgHuf : Statement .avgHuf := ⟨_, by decide, _, _, _, rfl⟩
theorem prepHuf : Statement .prepHuf := ⟨_, by decide, _, _, _, rfl⟩
theorem encSf (a b : BufIdx) : Statement (.encSf a b) := ⟨_, by decide, _, _, _, rfl⟩
theorem decSf (a b : BufIdx) : Statement (.decSf a b) := ⟨_, by decide, _, _, _, rfl⟩
theorem avgSf : Statement .avgSf := ⟨_, by decide, _, _, _, rfl⟩
theorem prepSf : Statement .prepSf := ⟨_, by decide, _, _, _, rfl⟩
theorem encArith (a b : BufIdx) : Statement (.encArith a b) := ⟨_, by decide, _, _, _, rfl⟩
theorem decArith (a b : BufIdx) : Statement (.decArith a b) := ⟨_, by decide, _, _, _, rfl⟩
theorem prepArith : Statement .prepArith := ⟨_, by decide, _, _, _, rfl⟩
theorem encLz77 (a b : BufIdx) : Statement (.encLz77 a b) := ⟨_, by decide, _, _, _, rfl⟩
theorem decLz77 (a b : BufIdx) : Statement (.decLz77 a b) := ⟨_, by decide, _, _, _, rfl⟩
theorem encLzw (a b : BufIdx) : Statement (.encLzw a b) := ⟨_, by decide, _, _, _, rfl⟩
theorem decLzw (a b : BufIdx) : Statement (.decLzw a b) := ⟨_, by decide, _, _, _, rfl⟩

end Sys2Proof.Laws.EncodedFields
end

