-- ==== Sys2Proof/Tests/Slice0.lean ====
section
/-! SUPPORT. The model's own tests: ill-formed commands refused, words written out from 30_encoding.md R80 and R86, one-step
tests with the values of 95_test_vectors.md or of a rule's own example, and for each statement with hypotheses a named
witness that meets them. Expected values come from the spec, not from the model. -/

namespace Sys2Proof.Tests

open Sys2Proof Sys2Proof.Machine

/-! ### Helpers -/

/-- A small instance (R5): four buffers of each kind, 64 bits, 16 bytes. -/
def params : Params := { nbs := 4, ntb := 4, bcap := 64, tcap := 16 }

/-- The small instance right after reset. -/
def idle : State := State.resetFor params

/-- A stream written as its bits, index 0 first. -/
def bits (l : List Nat) : BitSeq := l.map (fun x => x == 1)

/-- A text written as its bytes. -/
def txt (l : List Nat) : Text := l.map (BitVec.ofNat 8)

/-- Set the latched operands. -/
def args (a0 a1 a2 : Word64) (s : State) : State := { s with lArg0 := a0, lArg1 := a1, lArg2 := a2 }

/-- Set BS[0]. -/
def bs0 (l : List Nat) (s : State) : State := s.putBs 0 (bits l)

/-- Set TX[0]. -/
def tx0 (l : List Nat) (s : State) : State := s.putTx 0 (txt l)

/-- A built table with the given entries. -/
def tableOf (es : List (Nat × Nat)) : Table :=
  { valid := true
    n := BitVec.ofNat 9 es.length
    sym := fillVec 256 0 (es.map (fun e => BitVec.ofNat 8 e.1))
    w := fillVec 256 0 (es.map (fun e => BitVec.ofNat 32 e.2))
    sum := BitVec.ofNat 32 (es.map (·.2)).sum }

/-- The small instance with a table. -/
def built (t : Table) : State := { idle with table := t }

/-- Table T2 of 95. -/
def T2 : Table := tableOf [(0x61, 0x40000000), (0x62, 0x40000000)]
/-- Table T3e of 95. -/
def T3e : Table := tableOf [(0x61, 0x2AAAAAAB), (0x62, 0x2AAAAAAB), (0x63, 0x2AAAAAAA)]
/-- Table T3h of 95. -/
def T3h : Table := tableOf [(0x61, 0x40000000), (0x62, 0x20000000), (0x63, 0x20000000)]
/-- Table T3z of 95, c with weight 0. -/
def T3z : Table := tableOf [(0x61, 0x40000000), (0x62, 0x40000000), (0x63, 0)]
/-- Table T4 of 95. -/
def T4 : Table :=
  tableOf [(0x61, 0x33333333), (0x62, 0x26666666), (0x63, 0x1999999A), (0x64, 0x0CCCCCCD)]
/-- Table TA of 95, the EOM byte last. -/
def TA : Table := tableOf [(0x61, 0x40000000), (0x62, 0x2AAAAAAB), (0x00, 0x15555555)]
/-- Table TA with weight 0 for the EOM byte (95 L2.9 #11). -/
def TAz : Table := tableOf [(0x61, 0x40000000), (0x62, 0x40000000), (0x00, 0)]
/-- Table TW of 95. -/
def TW : Table := tableOf [(0x61, 0x2AAAAAAB), (0x62, 0x2AAAAAAB), (0x00, 0x2AAAAAAA)]

/-- The state with the table's Huffman tree present. -/
def hufReady (t : Table) : State := { built t with huf := hufBuild t, valid := { Valid.reset with huf := true } }

/-- The state with the table's Shannon-Fano code present. -/
def sfReady (t : Table) : State := { built t with sf := sfBuild t, valid := { Valid.reset with sf := true } }

/-- The state with the table's cumulative table present. -/
def arReady (t : Table) : State := { built t with ar := arBuild t, valid := { Valid.reset with arith := true } }

/-- The state with an LZ77 window and lookahead in force. -/
def lzReady (t : Table) (win la : Nat) : State :=
  { built t with lz77Window := BitVec.ofNat 32 win, lz77Lookahead := BitVec.ofNat 32 la
                 valid := { Valid.reset with lz77 := true } }

/-- The state with an LZW block size in force. -/
def lzwReady (t : Table) (w : Nat) : State :=
  { built t with lzwBlocksize := BitVec.ofNat 6 w, valid := { Valid.reset with lzw := true } }

/-- What a command leaves. -/
def after (i : Instr) (s : State) : State :=
  match exec i s with
  | .next t => t
  | .fault _ => s
  | .refused _ => s

/-- DETAIL after a command: 0 is OK (R301). -/
def detail (i : Instr) (s : State) : Nat := (after i s).status.detail.toNat

/-! ### Well-formed commands (R83) -/

theorem test_wf_bitstream_field : (Instr.bsClear 4).wellFormed params = false ∧ (Instr.bsClear 3).wellFormed params = true := by
  decide
theorem test_wf_bitstream_second : (Instr.bsCat 0 4).wellFormed params = false ∧ (Instr.bsCat 4 0).wellFormed params = false := by
  decide
theorem test_wf_text_field : (Instr.txPush 4).wellFormed params = false ∧ (Instr.txPush 3).wellFormed params = true := by
  decide
theorem test_wf_kinds :
    (Instr.bsAppt 0 3).wellFormed { params with nbs := 1 } = true ∧
    (Instr.bsAppt 3 0).wellFormed { params with nbs := 1 } = false ∧
    (Instr.bsRender 3 0).wellFormed { params with nbs := 1 } = true ∧
    (Instr.bsRender 0 3).wellFormed { params with nbs := 1 } = false ∧
    (Instr.encHuf 3 0).wellFormed { params with nbs := 1 } = false ∧
    (Instr.decHuf 3 0).wellFormed { params with nbs := 1 } = true := by decide
theorem test_wf_encode_source : (Instr.encHuf 0 4).wellFormed params = false ∧ (Instr.decHuf 4 0).wellFormed params = false := by
  decide
/-- 95 L2.12 #13: the buffer test comes before the table test. -/
theorem test_ill_formed_is_reported : detail (.encHuf 0 4) idle = 0x41 ∧ detail (.bsClear 4) idle = 0x41 := by decide

/-! ### Words written out from R80 and R86: RSV 31:20, C 19:16, B 15:12, A 11:8, OPC 7:0 -/

theorem test_decode_control :
    decodeTableWord 32 0b000000000000_0000_0000_0000_00000000 = some .nop ∧
    decodeTableWord 32 0b000000000000_0000_0000_0000_00000001 = some .regRd ∧
    decodeTableWord 32 0b000000000000_0000_0000_0000_00000010 = some .regWr := by decide
theorem test_decode_bitstream_appends :
    decodeTableWord 32 0b000000000000_0000_0000_0010_00010000 = some (.bsClear 2) ∧
    decodeTableWord 32 0b000000000000_0000_0000_0011_00010001 = some (.bsAppb 3) ∧
    decodeTableWord 32 0b000000000000_0000_0000_0001_00010010 = some (.bsAppu8 1) ∧
    decodeTableWord 32 0b000000000000_0000_0000_0010_00010011 = some (.bsAppu16 2) ∧
    decodeTableWord 32 0b000000000000_0000_0000_0001_00010100 = some (.bsAppu32 1) ∧
    decodeTableWord 32 0b000000000000_0000_0000_1111_00010101 = some (.bsAppu64 15) ∧
    decodeTableWord 32 0b000000000000_0000_0010_0001_00010110 = some (.bsCat 1 2) ∧
    decodeTableWord 32 0b000000000000_0000_0001_0011_00010111 = some (.bsAppt 3 1) := by decide
theorem test_decode_bitstream_access :
    decodeTableWord 32 0b000000000000_0000_0000_0010_00011000 = some (.bsPop 2) ∧
    decodeTableWord 32 0b000000000000_0000_0000_0001_00011001 = some (.bsGet 1) ∧
    decodeTableWord 32 0b000000000000_0000_0000_0011_00011010 = some (.bsSet 3) ∧
    decodeTableWord 32 0b000000000000_0000_0000_0010_00011011 = some (.bsLen 2) ∧
    decodeTableWord 32 0b000000000000_0000_0001_0011_00011100 = some (.bsRender 3 1) := by decide
theorem test_decode_text :
    decodeTableWord 32 0b000000000000_0000_0000_0001_00100000 = some (.txClear 1) ∧
    decodeTableWord 32 0b000000000000_0000_0000_0010_00100001 = some (.txPush 2) ∧
    decodeTableWord 32 0b000000000000_0000_0000_0011_00100010 = some (.txGet 3) ∧
    decodeTableWord 32 0b000000000000_0000_0000_0001_00100011 = some (.txSet 1) ∧
    decodeTableWord 32 0b000000000000_0000_0000_0100_00100100 = some (.txLen 4) := by decide
theorem test_decode_symbol_table :
    decodeTableWord 32 0b000000000000_0000_0000_0000_00110000 = some .stStage ∧
    decodeTableWord 32 0b000000000000_0000_0000_0000_00110001 = some .stBuild ∧
    decodeTableWord 32 0b000000000000_0000_0000_0000_00110010 = some .stSize ∧
    decodeTableWord 32 0b000000000000_0000_0000_0000_00110011 = some .stSymat ∧
    decodeTableWord 32 0b000000000000_0000_0000_0000_00110100 = some .stIndexof ∧
    decodeTableWord 32 0b000000000000_0000_0000_0000_00110101 = some .stProbat := by decide
theorem test_decode_fixed_block :
    decodeTableWord 32 0b000000000000_0000_0010_0001_01000000 = some (.encFixed 1 2) ∧
    decodeTableWord 32 0b000000000000_0000_0010_0001_01000001 = some (.decFixed 1 2) ∧
    decodeTableWord 32 0b000000000000_0000_0000_0000_01000010 = some .avgFixed ∧
    decodeTableWord 32 0b000000000000_0001_0011_0000_01000000 = some (.encBlock 0 3) ∧
    decodeTableWord 32 0b000000000000_0001_0011_0000_01000001 = some (.decBlock 0 3) ∧
    decodeTableWord 32 0b000000000000_0001_0000_0000_01000010 = some .avgBlock := by decide
theorem test_decode_huffman :
    decodeTableWord 32 0b000000000000_0010_0001_0010_01000000 = some (.encHuf 2 1) ∧
    decodeTableWord 32 0b000000000000_0010_0001_0010_01000001 = some (.decHuf 2 1) ∧
    decodeTableWord 32 0b000000000000_0010_0000_0000_01000010 = some .avgHuf ∧
    decodeTableWord 32 0b000000000000_0010_0000_0000_01000011 = some .prepHuf := by decide
theorem test_decode_shannon_fano :
    decodeTableWord 32 0b000000000000_0011_0001_0010_01000000 = some (.encSf 2 1) ∧
    decodeTableWord 32 0b000000000000_0011_0001_0010_01000001 = some (.decSf 2 1) ∧
    decodeTableWord 32 0b000000000000_0011_0000_0000_01000010 = some .avgSf ∧
    decodeTableWord 32 0b000000000000_0011_0000_0000_01000011 = some .prepSf := by decide
theorem test_decode_arith :
    decodeTableWord 32 0b000000000000_0100_0001_0010_01000000 = some (.encArith 2 1) ∧
    decodeTableWord 32 0b000000000000_0100_0001_0010_01000001 = some (.decArith 2 1) ∧
    decodeTableWord 32 0b000000000000_0100_0000_0000_01000011 = some .prepArith := by decide
theorem test_decode_dictionary :
    decodeTableWord 32 0b000000000000_0101_0001_0010_01000000 = some (.encLz77 2 1) ∧
    decodeTableWord 32 0b000000000000_0101_0001_0010_01000001 = some (.decLz77 2 1) ∧
    decodeTableWord 32 0b000000000000_0110_0001_0010_01000000 = some (.encLzw 2 1) ∧
    decodeTableWord 32 0b000000000000_0110_0001_0010_01000001 = some (.decLzw 2 1) := by decide
/-- 95 L2.12, the illegal words. -/
theorem test_decode_illegal :
    [0x00100000, 0x00000100, 0x00000101, 0x00000003, 0x00070040, 0x00040042, 0x00000043, 0x00010010, 0x00001010,
      0xFFFFFFFF].map (decodeTableWord 32) = List.replicate 10 none := by decide

/-! ### Control (95 L2.1) -/

theorem test_nop_counts : (after .nop idle).cmdCount = 1 ∧ statusWord (after .nop idle).status = 0 := by decide
theorem test_reg_rd_id : (after .regRd idle).res0 = 0x4944453700000001 := by decide
theorem test_reg_rd_reserved : detail .regRd (args 0x07 0 0 idle) = 0x42 ∧ detail .regRd (args 0x16 0 0 idle) = 0x42 := by
  decide
theorem test_reg_wr_valid : validWord (after .regWr (args 0x02 0x7F 0 idle)).valid = 0x63 := by decide
theorem test_reg_wr_read_only : detail .regWr (args 0x06 5 0 idle) = 0x43 ∧ detail .regWr (args 0x0C 5 0 idle) = 0x42 := by
  decide

/-! ### Symbol table (95 L2.2) -/

/-- Entries staged for `ST_BUILD` (95 L2.2 #6, and one symbol at a boundary sum). -/
def staged (es : List (Nat × Nat)) : State :=
  args (BitVec.ofNat 64 es.length) (BitVec.ofNat 64 es.length) 0
    { idle with staging := { sym := fillVec 256 0 (es.map (fun e => BitVec.ofNat 8 e.1))
                             w := fillVec 256 0 (es.map (fun e => BitVec.ofNat 32 e.2)) } }

theorem test_st_stage :
    (after .stStage (args 1 0x62 0x40000000 idle)).staging.sym[1] = 0x62 ∧
    (after .stStage (args 1 0x62 0x40000000 idle)).staging.w[1] = 0x40000000 := by decide
theorem test_st_stage_range : detail .stStage (args 256 1 1 idle) = 0x62 := by decide
theorem test_st_build_sum :
    (after .stBuild (staged [(0x61, 0x40000000), (0x62, 0x3F000000)])).table.sum = 0x7F000000 ∧
    detail .stBuild (staged [(0x61, 2126008812)]) = 0 ∧ detail .stBuild (staged [(0x61, 2168958484)]) = 0 := by decide
theorem test_st_build_errors :
    detail .stBuild (staged [(0x61, 2126008811)]) = 0x02 ∧ detail .stBuild (staged [(0x61, 2168958485)]) = 0x02 ∧
    detail .stBuild (args 2 3 0 idle) = 0x01 ∧ detail .stBuild (args 257 257 0 idle) = 0x03 ∧
    detail .stBuild (args 0 0 0 idle) = 0x02 := by decide
theorem test_st_size : (after .stSize (built T2)).res0 = 2 ∧ detail .stSize idle = 0x04 := by decide
theorem test_st_symat : (after .stSymat (args 1 0 0 (built T2))).res0 = 0x62 ∧ detail .stSymat (args 2 0 0 (built T2)) = 0x60 := by
  decide
/-- 95 L2.2 #17: the least index of duplicates. -/
theorem test_st_indexof :
    (after .stIndexof (args 0x61 0 0 (built (tableOf [(0x61, 0x20000000), (0x61, 0x20000000), (0x62, 0x40000000)])))).res0 = 0 ∧
    (after .stIndexof (args 0x62 0 0 (built T2))).res0 = 1 ∧ detail .stIndexof (args 0x7A 0 0 (built T2)) = 0x10 := by decide
/-- 95 L2.2 #7. -/
theorem test_st_probat :
    (after .stProbat (built (tableOf [(0x61, 0x40000000), (0x62, 0x3F000000)]))).res0 = 0x40000000 ∧
    (after .stProbat (built (tableOf [(0x61, 0x40000000), (0x62, 0x3F000000)]))).res1 = 0x7F000000 := by decide

/-! ### Bit streams (95 L2.3 and the rules' examples) -/

theorem test_bs_clear : (after (.bsClear 0) (bs0 [1, 0, 1] idle)).mem.getBs 0 = [] := by decide
theorem test_bs_appb :
    (after (.bsAppb 0) (args 1 0 0 (bs0 [1, 0] idle))).mem.getBs 0 = bits [1, 0, 1] ∧
    (after (.bsAppb 0) (args 2 0 0 idle)).mem.getBs 0 = bits [0] := by decide
theorem test_bs_appu8 :
    (after (.bsAppu8 0) (args 0xA5 0 0 idle)).mem.getBs 0 = bits [1, 0, 1, 0, 0, 1, 0, 1] ∧
    (after (.bsAppu8 0) (args 0x1FF 0 0 idle)).mem.getBs 0 = bits [1, 1, 1, 1, 1, 1, 1, 1] := by decide
theorem test_bs_appu16 :
    (after (.bsAppu16 0) (args 0xABCD 0 0 idle)).mem.getBs 0 =
      bits [1, 0, 1, 0, 1, 0, 1, 1, 1, 1, 0, 0, 1, 1, 0, 1] := by decide
theorem test_bs_appu32 :
    (after (.bsAppu32 0) (args 0xDEADBEEF 0 0 idle)).mem.getBs 0 =
      bits [1, 1, 0, 1, 1, 1, 1, 0, 1, 0, 1, 0, 1, 1, 0, 1, 1, 0, 1, 1, 1, 1, 1, 0, 1, 1, 1, 0, 1, 1, 1, 1] := by decide
theorem test_bs_appu64 :
    (after (.bsAppu64 0) (args 1 0 0 idle)).mem.getBs 0 = bits (List.replicate 63 0 ++ [1]) ∧
    detail (.bsAppu64 0) (bs0 [1] idle) = 0x50 := by decide
theorem test_bs_cat :
    (after (.bsCat 0 1) (bs0 [1, 0] (idle.putBs 1 (bits [0, 1, 1])))).mem.getBs 0 = bits [1, 0, 0, 1, 1] ∧
    (after (.bsCat 0 0) (bs0 [1, 0, 1] idle)).mem.getBs 0 = bits [1, 0, 1, 1, 0, 1] := by decide
theorem test_bs_appt :
    (after (.bsAppt 0 0) (tx0 [0x61, 0x62] idle)).mem.getBs 0 =
      bits [0, 1, 1, 0, 0, 0, 0, 1, 0, 1, 1, 0, 0, 0, 1, 0] := by decide
theorem test_bs_pop : (after (.bsPop 0) (bs0 [1, 0, 1] idle)).mem.getBs 0 = bits [1, 0] ∧ detail (.bsPop 0) idle = 0x61 := by
  decide
theorem test_bs_get :
    (after (.bsGet 0) (args 7 0 0 (bs0 [1, 0, 1, 0, 0, 1, 0, 1] idle))).res0 = 1 ∧
    (after (.bsGet 0) (args 1 0 0 (bs0 [1, 0, 1] idle))).res0 = 0 ∧
    detail (.bsGet 0) (args 8 0 0 (bs0 [1, 0, 1, 0, 0, 1, 0, 1] idle)) = 0x60 := by decide
theorem test_bs_set :
    (after (.bsSet 0) (args 1 1 0 (bs0 [1, 0, 1] idle))).mem.getBs 0 = bits [1, 1, 1] ∧
    detail (.bsSet 0) (args 3 1 0 (bs0 [1, 0, 1] idle)) = 0x60 := by decide
theorem test_bs_len : (after (.bsLen 0) (bs0 [1, 0, 1] idle)).res0 = 3 := by decide
theorem test_bs_render :
    (after (.bsRender 2 0) (bs0 [0, 1, 1, 0] idle)).mem.getTx 2 = txt [0x30, 0x31, 0x31, 0x30] ∧
    detail (.bsRender 2 0) (bs0 (List.replicate 17 0) idle) = 0x51 := by decide

/-! ### Texts (95 L2.4) -/

theorem test_tx_clear : (after (.txClear 0) (tx0 [0x41] idle)).mem.getTx 0 = [] := by decide
theorem test_tx_push :
    (after (.txPush 0) (args 0x1234 0 0 idle)).mem.getTx 0 = txt [0x34] ∧
    detail (.txPush 0) (tx0 (List.replicate 16 0x61) idle) = 0x51 := by decide
theorem test_tx_get :
    (after (.txGet 0) (args 1 0 0 (tx0 [0x61, 0x62] idle))).res0 = 0x62 ∧ detail (.txGet 1) idle = 0x60 := by decide
theorem test_tx_set :
    (after (.txSet 0) (args 0 0x62 0 (tx0 [0x61, 0x62] idle))).mem.getTx 0 = txt [0x62, 0x62] ∧
    detail (.txSet 0) (args 1 0x41 0 (tx0 [0x34] idle)) = 0x60 := by decide
theorem test_tx_len : (after (.txLen 0) (tx0 [0x61, 0x62] idle)).res0 = 2 := by decide

/-! ### FIXED and BLOCK (95 L2.5, L2.6) -/

theorem test_enc_fixed :
    (after (.encFixed 0 0) (tx0 [0x68, 0x69] idle)).mem.getBs 0 =
      bits [0, 1, 1, 0, 1, 0, 0, 0, 0, 1, 1, 0, 1, 0, 0, 1] := by decide
theorem test_dec_fixed :
    (after (.decFixed 1 0) (bs0 [0, 1, 0, 0, 0, 0, 0, 1] idle)).mem.getTx 1 = txt [0x41] ∧
    detail (.decFixed 1 0) (bs0 [0, 1, 1] idle) = 0x20 := by decide
theorem test_avg_fixed : (after .avgFixed idle).res0 = 8 ∧ (after .avgFixed idle).res1 = 1 := by decide
theorem test_enc_block :
    (after (.encBlock 0 0) (tx0 [0x63, 0x61, 0x62] (built T3e))).mem.getBs 0 = bits [1, 0, 0, 0, 0, 1] ∧
    detail (.encBlock 0 0) (tx0 [0x61, 0x62, 0x7A] (built T3e)) = 0x10 := by decide
theorem test_dec_block :
    (after (.decBlock 1 0) (bs0 [1, 0, 0, 0, 0, 1] (built T3e))).mem.getTx 1 = txt [0x63, 0x61, 0x62] := by decide
theorem test_dec_block_errors :
    detail (.decBlock 1 0) (bs0 [1, 0, 0, 0, 0] (built T3e)) = 0x20 ∧ detail (.decBlock 1 0) (bs0 [1, 1] (built T3e)) = 0x21 := by
  decide
theorem test_avg_block : (after .avgBlock (built T3e)).res0 = 2 ∧ detail .avgBlock idle = 0x04 := by decide

/-! ### HUF (95 L2.7) -/

theorem test_enc_huf : (after (.encHuf 0 0) (tx0 [0x61, 0x62, 0x63] (built T3h))).mem.getBs 0 = bits [0, 1, 1, 1, 0] := by
  decide
theorem test_enc_huf_ties :
    (after (.encHuf 0 0) (tx0 [0x61, 0x62, 0x63, 0x64] (built T4))).mem.getBs 0 = bits [0, 1, 0, 1, 1, 1, 1, 1, 0] := by decide
theorem test_dec_huf :
    (after (.decHuf 1 0) (bs0 [0, 1, 1, 0] (hufReady T3h))).mem.getTx 1 = txt [0x61, 0x62, 0x61] := by decide
theorem test_dec_huf_errors :
    detail (.decHuf 1 0) (bs0 [1, 1, 1] (hufReady T3h)) = 0x23 ∧ detail (.decHuf 1 0) (bs0 [0] (built T3h)) = 0x06 := by decide
theorem test_avg_huf : (after .avgHuf (hufReady T3h)).res0 = 0xC0000000 ∧ (after .avgHuf (hufReady T3h)).res1 = 0x80000000 := by
  decide
theorem test_prep_huf : (after .prepHuf (built T3h)).valid.huf = true ∧ detail .prepHuf idle = 0x04 := by decide

/-! ### SF (95 L2.8) -/

theorem test_enc_sf :
    (after (.encSf 0 0) (tx0 [0x61, 0x62, 0x63, 0x64] (built T4))).mem.getBs 0 =
      bits [0, 0, 0, 1, 1, 0, 1, 1, 1, 1, 0] := by decide +kernel
theorem test_enc_sf_no_code : detail (.encSf 0 0) (tx0 [0x63] (built T3z)) = 0x11 := by decide +kernel
theorem test_dec_sf : (after (.decSf 1 0) (bs0 [1, 0, 1, 1] (sfReady T3h))).mem.getTx 1 = txt [0x62, 0x63] := by decide +kernel
theorem test_dec_sf_errors :
    detail (.decSf 1 0) (bs0 [1, 1, 1, 1] (sfReady T4)) = 0x22 ∧ detail (.decSf 1 0) (bs0 [1, 1, 1] (sfReady T4)) = 0x20 := by
  decide +kernel
theorem test_avg_sf : (after .avgSf (sfReady T4)).res0 = 5153960756 ∧ (after .avgSf (sfReady T4)).res1 = 2147483648 := by decide +kernel
theorem test_prep_sf : (after .prepSf (built T3h)).valid.sf = true ∧ detail .prepSf idle = 0x04 := by decide

/-! ### ARITH (95 L2.9) -/

/-- 95 L2.9 #1: the empty text. -/
theorem test_enc_arith :
    (after (.encArith 0 0) (built TA)).mem.getBs 0 =
      bits [1, 1, 0, 1, 0, 1, 0, 1, 0, 1, 0, 1, 0, 1, 0, 1, 0, 1, 0, 1, 0, 1, 0, 1, 0, 1, 0, 1, 0, 1, 1] := by decide
theorem test_enc_arith_weight_zero : detail (.encArith 0 0) (built TAz) = 0x30 ∧ detail (.encArith 0 0) (built T2) = 0x05 := by
  decide
/-- 95 L2.9 #4: the text "bab". -/
theorem test_dec_arith :
    (after (.decArith 1 0)
      (bs0 [1, 0, 1, 0, 0, 0, 0, 1, 0, 0, 1, 0, 1, 1, 1, 1, 0, 1, 1, 0, 1, 0, 0, 0, 0, 1, 0, 0, 1, 1, 0, 0, 0, 0, 1, 1,
        1, 1, 0, 1, 1, 0, 1, 0, 0, 0, 0, 1, 0, 0, 1, 0, 1, 1, 1, 1] (arReady TA))).mem.getTx 1 =
      txt [0x62, 0x61, 0x62, 0x00] := by decide +kernel
/-- 95 L2.9 #15: the zero supply decodes 'a' for ever. -/
theorem test_dec_arith_full : detail (.decArith 1 0) (arReady TA) = 0x51 := by decide +kernel
theorem test_prep_arith :
    (after .prepArith (built TA)).valid.arith = true ∧
    (List.range 4).map (after .prepArith (built TA)).ar.cumAt = [0, 0x40000000, 0x6AAAAAAB, 0x80000000] := by decide

/-! ### LZ77 (95 L2.10) -/

theorem test_enc_lz77 :
    (after (.encLz77 0 0) (tx0 (List.replicate 10 0x61) (built T2))).mem.getBs 0 = bits [0, 0, 1, 0, 1, 0, 0, 0] ∧
    (after (.encLz77 0 0) (tx0 (List.replicate 10 0x61) (built T2))).lz77Lookahead = 10 := by decide
theorem test_enc_lz77_distance :
    (after (.encLz77 0 0) (tx0 [0x61, 0x62, 0x61, 0x62, 0x61, 0x62, 0x61, 0x62] (built T2))).mem.getBs 0 =
      bits [0, 0, 0, 1, 1, 1, 1, 0, 1] := by decide
theorem test_dec_lz77 :
    (after (.decLz77 1 0) (bs0 [0, 0, 1, 0, 1, 0, 0, 0] (lzReady T2 2 10))).mem.getTx 1 = txt (List.replicate 10 0x61) := by decide
theorem test_dec_lz77_errors :
    detail (.decLz77 1 0) (bs0 [0, 1, 1] (lzReady T2 2 10)) = 0x20 ∧
    detail (.decLz77 1 0) (bs0 [1, 0, 0, 0, 0, 0] (lzReady T2 2 10)) = 0x24 := by decide

/-! ### LZW (95 L2.11) -/

theorem test_enc_lzw :
    (after (.encLzw 0 0) (tx0 [0x61, 0x62, 0x61, 0x62, 0x61, 0x62] (built TW))).mem.getBs 0 =
      bits [0, 0, 0, 0, 0, 1, 0, 1, 1, 0, 1, 1] ∧
    (after (.encLzw 0 0) (tx0 [0x61, 0x62, 0x61, 0x62, 0x61, 0x62] (built TW))).lzwDictsize = 6 := by decide
theorem test_enc_lzw_sentinel :
    (after (.encLzw 0 0) (tx0 [0x61, 0x62, 0x61, 0x62, 0x00, 0x62, 0x62] (built TW))).mem.getBs 0 =
      bits [0, 0, 0, 0, 0, 1, 0, 1, 1] := by decide
/-- 95 L2.11 #5: the code that equals the size. -/
theorem test_dec_lzw :
    (after (.decLzw 1 0) (bs0 [0, 0, 0, 0, 1, 1, 1, 0, 0, 0, 0, 0] (lzwReady TW 3))).mem.getTx 1 =
      txt (List.replicate 7 0x61) ∧
    (after (.decLzw 1 0) (bs0 [0, 0, 0, 0, 1, 1, 1, 0, 0, 0, 0, 0] (lzwReady TW 3))).lzwDictsize = 6 := by decide
theorem test_dec_lzw_errors :
    detail (.decLzw 1 0) (bs0 [0, 1, 1] (lzwReady TW 3)) = 0x21 ∧
    detail (.decLzw 1 0) (bs0 [0, 0, 0, 1, 0, 0] (lzwReady TW 3)) = 0x21 ∧
    detail (.decLzw 1 0) (bs0 [0, 0, 0, 1] (lzwReady TW 3)) = 0x20 := by decide

/-! ### Witnesses: for each statement with hypotheses, states and operands that meet them, clause by clause -/

/-- A command word pending. -/
def pending (w : Word32) (s : State) : State := { s with lCmd := w, status := { s.status with busy := true } }

/-- The host's next access. -/
def accessing (a : HostAccess) (s : State) : State := { s with turns := [.host a] }

/-- A state with a table (TA: the EOM byte 0 is in it), every codec state present and a text "ba" in TX[0]. -/
def ready : State :=
  { tx0 [0x62, 0x61] (built TA) with
    huf := hufBuild TA, sf := sfBuild TA, ar := arBuild TA
    valid := { huf := true, sf := true, arith := true, lz77 := true, lzw := true } }

theorem statusOk_reset : Status.reset.ok := ⟨⟨none, rfl, rfl⟩, by decide⟩

theorem ready_inv : ready.Inv :=
  { params := by decide
    buffers := by decide
    table := by decide
    derived := ⟨fun _ => ⟨rfl, rfl⟩, fun _ => ⟨rfl, rfl⟩, fun _ => ⟨rfl, rfl⟩⟩
    status := statusOk_reset }

/-- A state with a table that holds a weight-0 symbol and the EOM byte, and no codec state. -/
def sparse : State := tx0 [0x61] (built TAz)

theorem sparse_inv : sparse.Inv :=
  { params := by decide
    buffers := by decide
    table := by decide
    derived := ⟨fun h => absurd h (by decide), fun h => absurd h (by decide), fun h => absurd h (by decide)⟩
    status := statusOk_reset }

/-- A command answers the state `after` names. -/
theorem exec_after (i : Instr) (s : State) : exec i s = .next (after i s) := by
  unfold after
  rw [exec_eq_finish]
  unfold finish
  split <;> rfl

/-- R82's classes of illegal word, one word of each. -/
theorem witness_ReservedWordsAreRejected :
    rsvField 0x00100000 ≠ 0 ∧ opcField 0x0000000F = 0x0F ∧ opcField 0x00000003 = 0x03 ∧ opcField 0x0000001F = 0x1F ∧
    opcField 0x0000002F = 0x2F ∧ opcField 0x0000003F = 0x3F ∧ opcField 0x00000044 = 0x44 ∧
    7 ≤ (cField 0x00070040).toNat ∧ cField 0x00010010 ≠ 0 ∧ 4 ≤ (cField 0x00040042).toNat ∧ cField 0x00000043 = 0 ∧
    5 ≤ (cField 0x00050043).toNat ∧ aField 0x00000100 ≠ 0 ∧ bField 0x00001010 ≠ 0 := by decide

theorem witness_StepRunsThePendingCommand :
    ((pending 0 idle).turns = [] ∧ (pending 0 idle).status.busy = true ∧ decode (pending 0 idle).lCmd = .ok .nop) ∧
    ({ pending 0 idle with turns := [.sequencer] }).turns = [.sequencer] ∧
    (idle.turns = [] ∧ idle.status.busy = false) := ⟨⟨rfl, rfl, rfl⟩, rfl, rfl, rfl⟩

theorem witness_IllegalWordCompletesAsBadOpcode :
    (pending 0x00100000 idle).turns = [] ∧ (pending 0x00100000 idle).status.busy = true ∧
    decode (pending 0x00100000 idle).lCmd = .error .badOpcode ∧
    ({ pending 0x00100000 idle with turns := [.sequencer, .reset] }).turns = .sequencer :: [.reset] := ⟨rfl, rfl, rfl, rfl⟩

theorem witness_HostProtocolRunsTheCommand : idle.turns = [] ∧ idle.status.busy = false := ⟨rfl, rfl⟩

theorem witness_HostWritesReachTheirRegisters :
    (accessing (.write 0x00 0) idle).turns = [.host (.write 0x00 0)] ∧ (accessing (.write 0x00 0) idle).status.busy = false ∧
    (accessing (.write 0x08 5) idle).turns = [.host (.write 0x08 5)] ∧
    (accessing (.write 0x10 5) idle).turns = [.host (.write 0x10 5)] ∧
    (accessing (.write 0x18 5) idle).turns = [.host (.write 0x18 5)] ∧
    (accessing (.write 0x30 5) idle).turns = [.host (.write 0x30 5)] ∧ 0x30 ∉ [0x00, 0x08, 0x10, 0x18] :=
  ⟨rfl, rfl, rfl, rfl, rfl, rfl, by decide⟩

theorem witness_DroppedCommandSetsStickyOverrun :
    ((accessing (.write 0x00 5) (pending 0 idle)).turns = [.host (.write 0x00 5)] ∧
      (accessing (.write 0x00 5) (pending 0 idle)).status.busy = true) ∧
    ∃ t, (pending 0 { idle with status := { Status.reset with ovr := true, anyErr := true } }).turns.head? ≠ some .reset ∧
      step (pending 0 { idle with status := { Status.reset with ovr := true, anyErr := true } }) = .next t :=
  ⟨⟨rfl, rfl⟩, _, by decide, rfl⟩

theorem witness_HostReadsReturnTheirRegisters :
    [0x00, 0x08, 0x10, 0x18, 0x20, 0x28, 0x30, 0x38].map (fun off => (accessing (.read off) ready).turns) =
      [0x00, 0x08, 0x10, 0x18, 0x20, 0x28, 0x30, 0x38].map (fun off => [.host (.read off)]) ∧
    0x38 ∉ [0x00, 0x08, 0x10, 0x18, 0x20, 0x28, 0x30] := by decide

theorem witness_ResetSetsEveryElement : ({ pending 0 ready with turns := [.reset] }).turns = [.reset] := rfl

theorem witness_EveryAcceptedCommandCompletes :
    (pending 0 ready).turns = [] ∧ (pending 0 ready).status.busy = true ∧
    ({ pending 0 ready with turns := [.sequencer, .reset] }).turns = .sequencer :: [.reset] := ⟨rfl, rfl, rfl⟩

theorem witness_FailedCommandChangesNothingElse : ∃ t, exec .stSize idle = .next t ∧ t.status.err ≠ 0 := ⟨_, rfl, by decide⟩

theorem witness_MissingBufferIsReportedFirst :
    (Instr.decHuf 4 4).wellFormed idle.cap = false ∧
    (Instr.decHuf 3 3).wellFormed idle.cap = true ∧ ∃ t, exec (.decHuf 3 3) idle = .next t := ⟨by decide, by decide, _, rfl⟩

theorem witness_TableSentinelAndStateAreTestedInOrder :
    ((Instr.decArith 0 0).wellFormed idle.cap = true ∧ needsTable (.decArith 0 0) = true ∧ idle.table.valid = false) ∧
    ((built T2).table.valid = true ∧ needsEom (.decArith 0 0) = true ∧ (built T2).table.indexOf (built T2).eom = none) ∧
    ((built TA).table.valid = true ∧ ((built TA).table.indexOf (built TA).eom).isSome = true ∧
      needsState (built TA).valid (.decArith 0 0) = some false) := by decide

theorem witness_AbsentSymbolIsReported :
    (Instr.encArith 0 0).wellFormed params = true ∧ (built TA).table.valid = true ∧
    ((built TA).table.indexOf (built TA).eom).isSome = true ∧
    messageOf (tx0 [0x63] (built TA)) (.encArith 0 0) = some (txt [0x63, 0x00]) ∧ 0x63#8 ∈ txt [0x63, 0x00] ∧
    (tx0 [0x63] (built TA)).table.indexOf 0x63 = none := by decide

theorem witness_ReadCommandsChangeOnlyResults :
    (isReadCommand .regRd = true ∧ ∃ t, exec .regRd idle = .next t) ∧
    (isReadCommand .stSize = true ∧ ∃ t, exec .stSize idle = .next t ∧ t.status.err ≠ 0) :=
  ⟨⟨rfl, _, rfl⟩, rfl, _, rfl, by decide⟩

theorem witness_OnlyBuildWritesTheTable :
    (Instr.encHuf 0 0 ≠ .stBuild ∧ ∃ t, exec (.encHuf 0 0) ready = .next t) ∧
    ∃ t, exec .stBuild (staged [(0x61, 2 ^ 31)]) = .next t ∧ t.status.err = 0 := ⟨⟨by decide, _, rfl⟩, _, rfl, by decide⟩

theorem witness_CommandsWriteOnlyTheirDestination :
    ∃ t, exec (.bsCat 0 1) ready = .next t ∧ destStream (.bsCat 0 1) ≠ some 1 ∧ destText (.bsCat 0 1) ≠ some 0 :=
  ⟨_, rfl, by decide, by decide⟩

theorem witness_CodecStateHasFewWriters :
    ∃ t, exec (.encLzw 0 0) ready = .next t ∧ Instr.encLzw 0 0 ≠ .regWr ∧ (∀ a b, Instr.encLzw 0 0 ≠ .encLz77 a b) ∧
      (∀ a b, Instr.encLzw 0 0 ≠ .encHuf a b) ∧ Instr.encLzw 0 0 ≠ .prepHuf ∧ (∀ a b, Instr.encLzw 0 0 ≠ .encSf a b) ∧
      Instr.encLzw 0 0 ≠ .prepSf ∧ (∀ a b, Instr.encLzw 0 0 ≠ .encArith a b) ∧ Instr.encLzw 0 0 ≠ .prepArith ∧
      Instr.encLzw 0 0 ≠ .stBuild :=
  ⟨_, rfl, nofun, nofun, nofun, nofun, nofun, nofun, nofun, nofun, nofun⟩

theorem witness_CodecStateHasFewWriters_lzw :
    ∃ t, exec (.encLz77 0 0) ready = .next t ∧ Instr.encLz77 0 0 ≠ .regWr ∧ (∀ a b, Instr.encLz77 0 0 ≠ .encLzw a b) ∧
      (∀ a b, Instr.encLz77 0 0 ≠ .decLzw a b) := ⟨_, rfl, nofun, nofun, nofun⟩

theorem witness_PortAndStagingFrame :
    ∃ t, exec (.bsLen 0) ready = .next t ∧ Instr.bsLen 0 ≠ .stStage ∧ isReadCommand (.bsClear 0) = false := by
  exact ⟨_, rfl, nofun, rfl⟩

theorem witness_NopAndRegisterReadsComplete :
    (args 0x15 0 0 idle).lArg0 = 0x15 ∧ (args 0x02 0 0 idle).lArg0 = 0x02 ∧
    (args 0x07 0 0 idle).lArg0 ∉ [0x00#64, 0x01, 0x02, 0x03, 0x04, 0x05, 0x06, 0x08, 0x09, 0x0A, 0x0B, 0x10, 0x11, 0x12, 0x13,
      0x14, 0x15] := by decide

theorem witness_RegisterWritesKeepTheirBits :
    [0x01, 0x02, 0x03, 0x04, 0x05, 0x06, 0x15, 0x16].map (fun r => (args r 0 0 idle).lArg0) =
      [0x01, 0x02, 0x03, 0x04, 0x05, 0x06, 0x15, 0x16] := by decide

theorem witness_StageWritesOneEntry : (args 255 0 0 idle).lArg0.toNat < 256 ∧ 256 ≤ (args 256 0 0 idle).lArg0.toNat := by decide

theorem witness_BuildCommitsTheTableOrReportsTheFirstError :
    (args 2 3 0 idle).lArg0 ≠ (args 2 3 0 idle).lArg1 ∧
    ((args 257 257 0 idle).lArg0 = (args 257 257 0 idle).lArg1 ∧ 256 < (args 257 257 0 idle).lArg0.toNat) ∧
    ((staged [(0x61, 2168958485)]).lArg0 = (staged [(0x61, 2168958485)]).lArg1 ∧
      2 ^ 31 < 100 * (((((staged [(0x61, 2168958485)]).staging.w.toList.take 1).map BitVec.toNat).sum : Int) - 2 ^ 31).natAbs) ∧
    ((staged [(0x61, 2168958484)]).lArg0 = (staged [(0x61, 2168958484)]).lArg1 ∧
      100 * (((((staged [(0x61, 2168958484)]).staging.w.toList.take 1).map BitVec.toNat).sum : Int) - 2 ^ 31).natAbs ≤ 2 ^ 31) := by
  decide

theorem witness_TableReadsReturnItsEntries :
    idle.table.valid = false ∧
    ((args 1 0 0 (built T2)).lArg0.toNat < 256 ∧ (args 1 0 0 (built T2)).table.valid = true ∧
      (args 1 0 0 (built T2)).lArg0.toNat < (args 1 0 0 (built T2)).table.n.toNat) ∧
    (args 2 0 0 (built T2)).table.n.toNat ≤ (args 2 0 0 (built T2)).lArg0.toNat := by decide

theorem witness_IndexOfReturnsTheLeastIndex :
    (built T2).table.n.toNat ≤ 256 ∧ idle.table.valid = false ∧
    ((args 0x62 0 0 (built T2)).table.valid = true ∧ 1 < (args 0x62 0 0 (built T2)).table.n.toNat ∧
      (args 0x62 0 0 (built T2)).table.sym[1] = (args 0x62 0 0 (built T2)).lArg0.extractLsb' 0 8 ∧
      (args 0x62 0 0 (built T2)).table.sym[0] ≠ (args 0x62 0 0 (built T2)).lArg0.extractLsb' 0 8) ∧
    (∀ x ∈ (args 0x7A 0 0 (built T2)).table.syms, x ≠ (args 0x7A 0 0 (built T2)).lArg0.extractLsb' 0 8) := by decide

theorem witness_TypedAppendsAreBigEndian :
    Memory.wf idle.cap idle.mem ∧ (3#4).toNat < idle.cap.nbs ∧
    (idle.mem.getBs 3).length + 64 ≤ idle.cap.bcap ∧
    (Memory.wf (bs0 [1] idle).cap (bs0 [1] idle).mem ∧ (bs0 [1] idle).cap.bcap < ((bs0 [1] idle).mem.getBs 0).length + 64) := by
  decide

/-- A stream as long as a buffer holds. -/
def fullStream : State := idle.putBs 0 (List.replicate 64 true)

theorem witness_ConcatenationsAppendTheSource :
    Memory.wf ready.cap ready.mem ∧ (ready.mem.getBs 0).length + (ready.mem.getBs 0).length ≤ ready.cap.bcap ∧
    (ready.mem.getBs 0).length + 8 * (ready.mem.getTx 0).length ≤ ready.cap.bcap ∧
    Memory.wf fullStream.cap fullStream.mem ∧
    fullStream.cap.bcap < (fullStream.mem.getBs 0).length + (fullStream.mem.getBs 0).length ∧
    (tx0 [0x61] fullStream).cap.bcap <
      ((tx0 [0x61] fullStream).mem.getBs 0).length + 8 * ((tx0 [0x61] fullStream).mem.getTx 0).length := by decide

theorem witness_StreamEditsAndReadsComplete :
    Memory.wf idle.cap idle.mem ∧ idle.cap.ok ∧ (0#4).toNat < idle.cap.nbs ∧ idle.mem.getBs 0 = [] ∧
    (args 2 0 0 (bs0 [1, 0, 1] idle)).mem.getBs 0 = bits [1, 0] ++ [true] ∧
    (args 2 0 0 (bs0 [1, 0, 1] idle)).lArg0.toNat < ((args 2 0 0 (bs0 [1, 0, 1] idle)).mem.getBs 0).length ∧
    ((args 2 0 0 (bs0 [1, 0, 1] idle)).mem.getBs 0)[(args 2 0 0 (bs0 [1, 0, 1] idle)).lArg0.toNat]? = some true ∧
    ((args 3 0 0 (bs0 [1, 0, 1] idle)).mem.getBs 0).length ≤ (args 3 0 0 (bs0 [1, 0, 1] idle)).lArg0.toNat := by decide

theorem witness_RenderWritesOneCharacterPerBit :
    Memory.wf idle.cap idle.mem ∧ (idle.mem.getBs 0).length ≤ idle.cap.tcap ∧
    Memory.wf fullStream.cap fullStream.mem ∧ fullStream.cap.tcap < (fullStream.mem.getBs 0).length := by decide

/-- A container with every kind of leaf. -/
def container : NatVal := .seq [.bit true, .uint .u8 0xA5, .seq [.stream 1, .bytes 0]]

theorem witness_NaturalEncodingIsAppended :
    Memory.wf ready.cap ready.mem ∧ ready.status.busy = false ∧ (0#4).toNat < ready.cap.nbs ∧
    (∀ b ∈ natStreams container, b ≠ 0 ∧ b.toNat < ready.cap.nbs) ∧ (∀ t ∈ natTexts container, t.toNat < ready.cap.ntb) ∧
    (ready.mem.getBs 0).length + (natEnc ready.mem container).length ≤ ready.cap.bcap := by decide

theorem witness_TextCommandsComplete :
    Memory.wf ready.cap ready.mem ∧ ready.cap.ok ∧ (0#4).toNat < ready.cap.ntb ∧
    (ready.mem.getTx 0).length < ready.cap.tcap ∧
    ((tx0 (List.replicate 16 0x61) idle).mem.getTx 0).length = idle.cap.tcap ∧
    ((args 1 0 0 ready).mem.getTx 0)[(args 1 0 0 ready).lArg0.toNat]? = some 0x61#8 ∧
    (args 1 0 0 ready).lArg0.toNat < ((args 1 0 0 ready).mem.getTx 0).length ∧
    ((args 2 0 0 ready).mem.getTx 0).length ≤ (args 2 0 0 ready).lArg0.toNat := by decide

/-- A state whose first text does not fit a stream, and whose fixed-length codes of it do not either. -/
def longText : State :=
  { tx0 (List.replicate 9 0x61) (built T2) with cap := { params with bcap := 8 } }

theorem witness_FixedAndBlockEncodersComplete :
    Memory.wf ready.cap ready.mem ∧ 8 * (ready.mem.getTx 0).length ≤ ready.cap.bcap ∧
    (Memory.wf longText.cap longText.mem ∧ longText.cap.bcap < 8 * (longText.mem.getTx 0).length) ∧
    ready.table.valid = true ∧ ready.table.lookupAll (ready.mem.getTx 0) = some [1, 0] ∧
    (ready.mem.getTx 0).length * max 1 (clog2 ready.table.n.toNat) ≤ ready.cap.bcap ∧
    longText.table.lookupAll (longText.mem.getTx 0) = some (List.replicate 9 0) ∧
    longText.cap.bcap < (longText.mem.getTx 0).length * max 1 (clog2 longText.table.n.toNat) := by decide

/-- A state of the invariant whose first text, 66 letters without a period, no codec fits into a stream of 64 bits. -/
def crowded : State :=
  { built TW with
    cap := { params with tcap := 80 }
    mem := (Memory.reset params).setTx 0
      ((List.range 66).map (fun i => if i * i * 7 / 5 % 3 = 0 then 0x61#8 else 0x62#8)) }

theorem crowded_inv : crowded.Inv :=
  { params := by decide
    buffers := by decide
    table := by decide
    derived := ⟨fun h => absurd h (by decide), fun h => absurd h (by decide), fun h => absurd h (by decide)⟩
    status := statusOk_reset }

/-- The indices of `crowded`'s text. -/
def crowdedIdx : List Nat := (List.range 66).map (fun i => if i * i * 7 / 5 % 3 = 0 then 0 else 1)

/-- For the BS_FULL clauses of HuffmanCommandsComplete, ShannonFanoCommandsComplete, ArithmeticCommandsComplete and
DictionaryEncodersComplete. -/
theorem witness_encoders_full :
    crowded.Inv ∧ crowded.table.valid = true ∧ crowded.table.lookupAll (crowded.mem.getTx 0) = some crowdedIdx ∧
    crowded.cap.bcap < (crowdedIdx.flatMap (fun i => (hufCodes crowded.table.weights).getD i [])).length ∧
    (∀ i ∈ crowdedIdx, 0 < crowded.table.weights.getD i 0) ∧
    crowded.cap.bcap < (crowdedIdx.flatMap (sfBuild crowded.table).codeword).length ∧
    crowded.cap.bcap < (lzEncode crowded.table (crowded.mem.getTx 0) crowdedIdx).length ∧
    (crowded.table.indexOf crowded.eom).isSome = true ∧
    (crowded.mem.getTx 0).takeWhile (fun c => c != crowded.eom) = crowded.mem.getTx 0 ∧
    crowded.cap.bcap < (lzwEncode crowded.table (crowded.mem.getTx 0)).1.length ∧
    (arEncode (arBuild crowded.table) crowded.table.total (crowdedIdx ++ [2])).toOption.map
      (fun out => decide (crowded.cap.bcap < out.length)) = some true :=
  ⟨crowded_inv, rfl, by decide +kernel, by decide +kernel, by decide +kernel, by decide +kernel, by decide +kernel,
    by decide, by decide +kernel, by decide +kernel, by decide +kernel⟩

theorem witness_HuffmanCommandsComplete :
    ready.Inv ∧ ready.table.valid = true ∧ ready.table.lookupAll (ready.mem.getTx 0) = some [1, 0] ∧
    ([1, 0].flatMap (fun i => (hufCodes ready.table.weights).getD i [])).length ≤ ready.cap.bcap ∧ ready.valid.huf = true :=
  ⟨ready_inv, rfl, by decide, by decide, rfl⟩

theorem witness_ShannonFanoCommandsComplete :
    ready.Inv ∧ ready.table.lookupAll (ready.mem.getTx 0) = some [1, 0] ∧
    (∀ i ∈ [1, 0], 0 < ready.table.weights.getD i 0) ∧
    ([1, 0].flatMap (sfBuild ready.table).codeword).length ≤ ready.cap.bcap ∧ ready.valid.sf = true ∧
    (sparse.Inv ∧ (tx0 [0x00] sparse).table.lookupAll ((tx0 [0x00] sparse).mem.getTx 0) = some [2] ∧
      sparse.table.weights.getD 2 0 = 0) :=
  ⟨ready_inv, by decide, by decide, by decide +kernel, rfl, sparse_inv, by decide, by decide⟩

theorem witness_ArithmeticCommandsComplete :
    ready.Inv ∧ (ready.table.indexOf ready.eom).isSome = true ∧
    ready.table.lookupAll ((ready.mem.getTx 0).takeWhile (fun c => c != ready.eom) ++ [ready.eom]) = some [1, 0, 2] ∧
    (∀ i ∈ [1, 0, 2], 0 < ready.table.weights.getD i 0) ∧
    (sparse.Inv ∧ (sparse.table.indexOf sparse.eom).isSome = true ∧
      sparse.table.lookupAll ((sparse.mem.getTx 0).takeWhile (fun c => c != sparse.eom) ++ [sparse.eom]) = some [0, 2] ∧
      sparse.table.weights.getD 2 0 = 0) :=
  ⟨ready_inv, by decide, by decide, by decide, sparse_inv, by decide, by decide, by decide⟩

theorem witness_DictionaryEncodersComplete :
    ready.Inv ∧ ready.table.lookupAll (ready.mem.getTx 0) = some [1, 0] ∧
    (lzEncode ready.table (ready.mem.getTx 0) [1, 0]).length ≤ ready.cap.bcap ∧
    (ready.table.indexOf ready.eom).isSome = true ∧
    ready.table.lookupAll ((ready.mem.getTx 0).takeWhile (fun c => c != ready.eom)) = some [1, 0] ∧
    (lzwEncode ready.table ((ready.mem.getTx 0).takeWhile (fun c => c != ready.eom))).1.length ≤ ready.cap.bcap :=
  ⟨ready_inv, by decide, by decide, by decide, by decide, by decide⟩

theorem witness_FixedAndBlockDecodersComplete :
    Memory.wf (bs0 [1, 0, 0] (built T3e)).cap (bs0 [1, 0, 0] (built T3e)).mem ∧
    ((bs0 [1, 0, 0] (built T3e)).mem.getBs 0).length % 8 ≠ 0 ∧ ((bs0 [1, 0, 0] (built T3e)).mem.getBs 0).length % 2 ≠ 0 ∧
    max 1 (clog2 (built T3e).table.n.toNat) = 2 ∧
    (bs0 [0, 1, 0, 0, 0, 0, 0, 1] (built T3e)).mem.getBs 0 = (txt [0x41]).flatMap (fun c => uBits c.toNat 8) ∧
    (bs0 [1, 0, 0, 0] (built T3e)).mem.getBs 0 = [2, 0].flatMap (fun i => uBits i 2) ∧
    (bs0 [1, 0, 1, 1, 0, 0] (built T3e)).mem.getBs 0 = ([2] ++ 3 :: [0]).flatMap (fun i => uBits i 2) ∧
    (built T3e).table.n.toNat ≤ 3 ∧ 3 < 2 ^ 2 := by decide

theorem witness_FixedAndBlockDecodersComplete_full :
    Memory.wf { params with tcap := 1 } (bs0 (List.replicate 16 0) (built T3e)).mem ∧
    (bs0 (List.replicate 16 0) (built T3e)).mem.getBs 0 = (txt [0, 0]).flatMap (fun c => uBits c.toNat 8) ∧
    (bs0 (List.replicate 14 0 ++ [1, 1]) (built T3e)).mem.getBs 0 =
      (List.replicate 7 0 ++ [3]).flatMap (fun i => uBits i 2) := by decide

theorem witness_DecodersCommitTheirOutput :
    Memory.wf (hufReady T3h).cap (hufReady T3h).mem ∧ (Instr.decHuf 1 0).wellFormed params = true ∧
    (hufReady T3h).table.valid = true ∧ needsEom (.decHuf 1 0) = false ∧
    needsState (hufReady T3h).valid (.decHuf 1 0) = some true ∧
    (hufDecode (hufReady T3h).huf T3h 16 (bits [0, 1, 1])).toOption = some (txt [0x61, 0x62]) ∧
    (hufDecode (hufReady T3h).huf T3h 16 (bits [1])).toOption = none := by decide

theorem witness_FixedAndBlockRoundTrip :
    ∃ t u, ready.Inv ∧ exec (.encFixed 0 0) ready = .next t ∧ t.status.err = 0 ∧
      exec (.encBlock 0 0) ready = .next u ∧ u.status.err = 0 := ⟨_, _, ready_inv, rfl, by decide, rfl, by decide⟩

theorem witness_HuffmanRoundTripAndErrors : ∃ t, ready.Inv ∧ exec (.encHuf 0 0) ready = .next t ∧ t.status.err = 0 :=
  ⟨_, ready_inv, rfl, by decide⟩

theorem witness_ShannonFanoRoundTripAndErrors : ∃ t, ready.Inv ∧ exec (.encSf 0 0) ready = .next t ∧ t.status.err = 0 :=
  ⟨_, ready_inv, exec_after _ _, by decide +kernel⟩

/-- `ready` with room for longer streams and a first text of 16 letters 'a', whose message is one byte longer than TCAP. -/
def brimful : State :=
  { ready with
    cap := { params with bcap := 128 }
    mem := (Memory.reset params).setTx 0 (List.replicate 16 0x61) }

theorem brimful_inv : brimful.Inv :=
  { params := by decide
    buffers := by decide
    table := by decide
    derived := ⟨fun _ => ⟨rfl, rfl⟩, fun _ => ⟨rfl, rfl⟩, fun _ => ⟨rfl, rfl⟩⟩
    status := statusOk_reset }

theorem witness_ArithmeticRoundTripAndErrors :
    ∃ t u, ready.Inv ∧ (arMessage ready.eom (ready.mem.getTx 0)).length ≤ ready.cap.tcap ∧
      exec (.encArith 0 0) ready = .next t ∧ t.status.err = 0 ∧
      brimful.Inv ∧ brimful.cap.tcap < (arMessage brimful.eom (brimful.mem.getTx 0)).length ∧
      exec (.encArith 0 0) brimful = .next u ∧ u.status.err = 0 :=
  ⟨_, _, ready_inv, by decide, exec_after _ _, by decide +kernel, brimful_inv, by decide, exec_after _ _, by decide +kernel⟩

/-- The tests of R246 passed; BS[0] is empty, and decodes as 'a' for ever (R246's corner case). -/
theorem witness_ArithmeticRoundTripAndErrors_any_stream :
    ready.Inv ∧ ready.table.valid = true ∧ (ready.table.indexOf ready.eom).isSome = true ∧ ready.valid.arith = true ∧
    detail (.decArith 1 0) ready = 0x51 := ⟨ready_inv, rfl, by decide, rfl, by decide +kernel⟩

theorem witness_Lz77RoundTripAndErrors : ∃ t, ready.Inv ∧ exec (.encLz77 0 0) ready = .next t ∧ t.status.err = 0 :=
  ⟨_, ready_inv, rfl, by decide⟩

theorem witness_LzwRoundTripAndErrors : ∃ t, ready.Inv ∧ exec (.encLzw 0 0) ready = .next t ∧ t.status.err = 0 :=
  ⟨_, ready_inv, rfl, by decide⟩

/-- A state with a table, its Huffman tree and Shannon-Fano code, an LZW block size of 3 and a stream in BS[0]. -/
def coded (t : Table) (l : List Nat) : State :=
  bs0 l { built t with huf := hufBuild t, sf := sfBuild t, lzwBlocksize := 3
                       valid := { Valid.reset with huf := true, sf := true, lzw := true } }

theorem coded_inv (t : Table) (l : List Nat) (hm : Memory.wf (coded t l).cap (coded t l).mem) (hv : t.valid = true)
    (hw : t.wf) : (coded t l).Inv :=
  { params := (by decide : params.ok)
    buffers := hm
    table := hw
    derived := ⟨fun _ => ⟨hv, rfl⟩, fun _ => ⟨hv, rfl⟩, fun h => absurd h Bool.false_ne_true⟩
    status := statusOk_reset }

/-- Table T1 of 95. -/
def T1 : Table := tableOf [(0x7A, 0x80000000)]

theorem witness_HuffmanRoundTripAndErrors_one :
    (coded T1 [0, 0, 1, 1]).Inv ∧ (coded T1 [0, 0, 1, 1]).valid.huf = true ∧ (coded T1 [0, 0, 1, 1]).table.size = 1 ∧
    (coded T1 [0, 0, 1, 1]).mem.getBs 0 = List.replicate 2 false ++ true :: [true] ∧
    (coded T1 [0, 0]).mem.getBs 0 = List.replicate 2 false ∧
    (coded T1 (List.replicate 17 0 ++ [1])).mem.getBs 0 = List.replicate 17 false ++ [true] ∧ params.tcap < 17 :=
  ⟨coded_inv _ _ (by decide) rfl (by decide), rfl, by decide, by decide, by decide, by decide, by decide⟩

theorem witness_HuffmanRoundTripAndErrors_many :
    (coded T3h [0, 1, 1, 1]).Inv ∧ 2 ≤ (coded T3h [0, 1, 1, 1]).table.size ∧
    (coded T3h [0, 1, 1, 1]).mem.getBs 0 = [0, 1].flatMap (fun i => (hufCodes T3h.weights).getD i []) ++ bits [1] ∧
    bits [1] <+: (hufCodes T3h.weights).getD 2 [] ∧ bits [1] ≠ (hufCodes T3h.weights).getD 2 [] ∧
    (coded T3h (List.replicate 17 0)).mem.getBs 0 =
      (List.replicate 17 0).flatMap (fun i => (hufCodes T3h.weights).getD i []) ++ [] :=
  ⟨coded_inv _ _ (by decide) rfl (by decide), by decide, by decide, by decide, by decide, by decide⟩

theorem witness_ShannonFanoRoundTripAndErrors_streams :
    (coded T4 [0, 1, 1, 0]).Inv ∧ (coded T4 [0, 1, 1, 0]).valid.sf = true ∧
    (∀ i ∈ [1], i < T4.size ∧ 0 < T4.weightAt i) ∧
    (coded T4 [0, 1, 1, 0]).mem.getBs 0 = [1].flatMap (sfBuild T4).codeword ++ bits [1, 0] ∧
    bits [1, 0] <+: (sfBuild T4).codeword 2 ∧ bits [1, 0] ≠ (sfBuild T4).codeword 2 ∧
    (coded T4 [0, 1, 1, 1, 1, 1]).mem.getBs 0 = [1].flatMap (sfBuild T4).codeword ++ bits [1, 1, 1, 1] ∧
    (∀ i, i < 4 → ¬ (sfBuild T4).codeword i <+: bits [1, 1, 1, 1] ∧ ¬ bits [1, 1, 1, 1] <+: (sfBuild T4).codeword i) ∧
    (coded T4 (List.replicate 34 0)).mem.getBs 0 = (List.replicate 17 0).flatMap (sfBuild T4).codeword ++ [] :=
  ⟨coded_inv _ _ (by decide) rfl (by decide), rfl, by decide, by decide +kernel, by decide +kernel, by decide +kernel,
    by decide +kernel, by decide +kernel, by decide +kernel⟩

/-- After the literal 'a' (95 L2.10): a cut match and a cut literal, a distance of 2, a copy of length 1, a literal 'b'. -/
theorem witness_Lz77RoundTripAndErrors_tokens :
    Memory.wf (lzReady T2 2 10).cap (lzReady T2 2 10).mem ∧
    (after (.decLz77 1 0) ((lzReady T2 2 10).putBs 0 (bits [0, 0]))).status.err = 0 ∧
    (after (.decLz77 1 0) ((lzReady T2 2 10).putBs 0 (bits [0, 0]))).mem.getTx 1 = txt [0x61] ∧
    clog2 (lzReady T2 2 10).table.n.toNat = 1 ∧ clog2 (lzReady T2 2 10).lz77Window.toNat = 1 ∧
    clog2 (lzReady T2 2 10).lz77Lookahead.toNat = 4 ∧
    bits [1, 1] = true :: bits [1] ∧ (bits [1]).length < 1 + 4 ∧ bits [0] = false :: [] ∧
    bits [1, 1, 0, 0, 0, 0] = true :: (uBits (2 - 1) 1 ++ (uBits (1 - 1) 4 ++ [])) ∧ (txt [0x61]).length < 2 ∧
    bits [1, 0, 0, 0, 0, 0] = true :: (uBits (1 - 1) 1 ++ (uBits (1 - 1) 4 ++ [])) ∧
    bits [1, 0, 1, 1, 1, 1] = true :: (uBits (1 - 1) 1 ++ (uBits (16 - 1) 4 ++ [])) ∧ params.tcap < (txt [0x61]).length + 16 ∧
    bits [0, 1] = false :: (uBits 1 1 ++ []) := by decide

theorem witness_Lz77RoundTripAndErrors_literals :
    (after (.decLz77 1 0) ((lzReady T3e 2 10).putBs 0 [])).status.err = 0 ∧
    bits [0, 1, 1] = false :: (uBits 3 2 ++ []) ∧ (lzReady T3e 2 10).table.n.toNat ≤ 3 ∧
    (after (.decLz77 1 0) ((lzReady T3e 2 10).putBs 0 (List.replicate 48 false))).status.err = 0 ∧
    ((after (.decLz77 1 0) ((lzReady T3e 2 10).putBs 0 (List.replicate 48 false))).mem.getTx 1).length = params.tcap := by
  decide +kernel

theorem witness_LzwRoundTripAndErrors_codes :
    (coded TW []).Inv ∧ (coded TW []).table.valid = true ∧ ((coded TW []).table.indexOf (coded TW []).eom).isSome = true ∧
    (coded TW []).valid.lzw = true ∧ (coded TW []).lzwBlocksize.toNat = 3 ∧ (coded TW []).mem.getBs 0 = [] ∧
    ((coded TW [0, 0, 0, 1]).mem.getBs 0).length % 3 ≠ 0 ∧
    (coded TW [0, 1, 1]).mem.getBs 0 = uBits 3 3 ++ [] ∧ TW.n.toNat ≤ 3 ∧
    (after (.decLzw 1 0) ((coded TW []).putBs 0 (bits [0, 0, 0]))).status.err = 0 ∧
    (after (.decLzw 1 0) ((coded TW []).putBs 0 (bits [0, 0, 0]))).lzwDictsize.toNat < 4 ∧
    ({ coded TW [1] with lzwBlocksize := 0 }).lzwBlocksize.toNat = 0 ∧ (coded TW [1]).mem.getBs 0 ≠ [] :=
  ⟨coded_inv _ _ (by decide) rfl (by decide), rfl, by decide, rfl, by decide, by decide, by decide, by decide, by decide,
    by decide, by decide, by decide, by decide⟩

/-- R291's example, codes 0, 3, 4, 0: "aaaaaaa" by two self-referential codes; 0, 1, 3, 4 uses entries; six more codes
overflow 16 bytes; after the code 0 the code 4 is too high. -/
theorem witness_LzwRoundTripAndErrors_strings :
    LzwStrings TW [0, 3, 4, 0] [txt [0x61], txt [0x61, 0x61], txt [0x61, 0x61, 0x61], txt [0x61]] ∧
    (coded TW [0, 0, 0, 0, 1, 1, 1, 0, 0, 0, 0, 0]).mem.getBs 0 = [0, 3, 4, 0].flatMap (fun k => uBits k 3) ++ [] ∧
    LzwStrings TW [0, 1, 3, 4] [txt [0x61], txt [0x62], txt [0x61, 0x62], txt [0x62, 0x61]] ∧
    LzwStrings TW [0, 3, 4, 5, 6, 7] ((List.range 6).map (fun i => List.replicate (i + 1) 0x61)) ∧
    (coded TW [0, 0, 0, 0, 1, 1, 1, 0, 0, 1, 0, 1, 1, 1, 0, 1, 1, 1]).mem.getBs 0 =
      [0, 3, 4, 5, 6, 7].flatMap (fun k => uBits k 3) ++ [] ∧
    params.tcap < ((List.range 6).map (fun i => List.replicate (i + 1) 0x61#8)).flatten.length ∧
    (∀ k ∈ [0, 3, 4, 5, 6, 7], k < 2 ^ 3) ∧
    (LzwStrings TW [0] [txt [0x61]] ∧ [txt [0x61]].flatten.length ≤ params.tcap) ∧ uBits 4 3 ++ [] = bits [1, 0, 0] ∧ TW.n.toNat + (1 - 1) < 4 :=
  ⟨by decide, by decide, by decide, by decide, by decide, by decide, by decide, by decide, by decide, by decide⟩

/-- For HuffmanCodeIsPrefixFreeAndComplete, ShannonFanoCodeIsPrefixFree and LzwCodesAreTheLongestAndFit. -/
theorem witness_HuffmanCodeIsPrefixFreeAndComplete : T4.valid = true ∧ T4.wf ∧ 2 ≤ T4.size ∧ T4.size ≤ (bits [1, 1, 0, 1]).length := by
  decide

theorem witness_ShannonFanoCodeIsPrefixFree :
    T3z.valid = true ∧ T3z.wf ∧ 2 < T3z.size ∧ T3z.weightAt 2 = 0 ∧ 0 < T3z.weightAt 0 ∧ 0 < T3z.weightAt 1 := by decide

theorem witness_ShannonFanoCodeIsPrefixFree_order : T4.valid = true ∧ T4.wf ∧ T4.weightAt 1 < T4.weightAt 0 := by decide

/-- Each kind of merge is taken somewhere; T3h is a table of more than one symbol, with children, T1 of one. -/
theorem witness_HuffmanMergeAndChildOrder :
    2 ≤ [0, 1].length + [(2, 2), (3, 2)].length ∧
    hufPick (fun _ => 1) [0, 1] [(2, 2), (3, 2)] = hufLL (fun _ => 1) [0, 1] [(2, 2), (3, 2)] ∧
    hufPick (fun i => 2 * i) [0, 3] [(4, 2), (5, 2)] = hufLN (fun i => 2 * i) [0, 3] [(4, 2), (5, 2)] ∧
    hufPick (fun _ => 9) [0, 1] [(2, 2), (3, 2)] = hufNN [0, 1] [(2, 2), (3, 2)] ∧
    T3h.valid = true ∧ T3h.wf ∧ 2 ≤ T3h.size ∧ (hufChildren T3h.weights)[0]? = some (2, 1) ∧
    T1.valid = true ∧ T1.wf ∧ T1.size = 1 := by decide

theorem witness_NarrowingFailsOnlyOnWeightZero :
    (0 < 2 ^ 31 ∧ 2 ^ 31 < 2 ^ 32 ∧ 5 ≤ 5 ∧ 5 ≤ 2 ^ 31 ∧ arStart.low ≤ arStart.high ∧
      2 ^ 51 < arStart.high - arStart.low + 1) ∧ (5 < 6 ∧ 6 ≤ 2 ^ 31) := by decide

/-- Bounds that meet the hypotheses, and bounds of each of the three turns at their edges. -/
theorem witness_RenormalizationScalesAndReachesItsExit :
    arStart.low ≤ arStart.high ∧ arStart.high < 2 ^ 53 ∧ (Interval.mk 7 7).low ≤ (Interval.mk 7 7).high ∧
    arStart.low ≤ (BitFeed.mk 9 []).v ∧ (BitFeed.mk 9 []).v ≤ arStart.high ∧
    (Interval.mk 0 (2 ^ 52 - 1)).high < 2 ^ 52 ∧ 2 ^ 52 ≤ (Interval.mk (2 ^ 52) (2 ^ 53 - 1)).low ∧
    (2 ^ 51 ≤ (Interval.mk (2 ^ 51) (3 * 2 ^ 51 - 1)).low ∧ (Interval.mk (2 ^ 51) (3 * 2 ^ 51 - 1)).low < 2 ^ 52 ∧
      2 ^ 52 ≤ (Interval.mk (2 ^ 51) (3 * 2 ^ 51 - 1)).high ∧ (Interval.mk (2 ^ 51) (3 * 2 ^ 51 - 1)).high < 3 * 2 ^ 51) := by
  decide

theorem witness_Lz77SizesFollowTheLength : 1 ≤ 2 ^ 32 - 1 ∧ 2 ^ 32 - 1 < 2 ^ 32 := by decide

theorem witness_Lz77TakesTheLongestNearestMatch :
    T2.lookupAll (txt [0x61, 0x61, 0x61, 0x61]) = some [0, 0, 0, 0] ∧ 1 ≤ (txt [0x61, 0x61, 0x61]).length ∧ bestMatch (txt [0x61, 0x61, 0x61]) 2 3 1 = (1, 2) ∧
    bestMatch (txt [0x61, 0x62]) 2 3 1 = (0, 0) := by decide

theorem witness_LzwCodesAreTheLongestAndFit :
    TW.valid = true ∧ TW.wf ∧ TW.lookupAll (txt [0x61, 0x62]) = some [0, 1] ∧ TW.lookupAll [] = some [] := by decide

theorem witness_EveryStepKeepsTheInvariant : ∃ t, ready.Inv ∧ step ready = .next t := ⟨_, ready_inv, rfl⟩

theorem witness_InvariantHoldsAfterReset : params.ok ∧ Params.default.ok := by decide

/-- Two states that differ in a Huffman state no VALID bit vouches for. -/
theorem witness_UnvouchedStateIsUnobservable :
    idle.obsEq { idle with huf := hufBuild T2 } ∧ (idle.huf.n ≠ (hufBuild T2).n) := ⟨rfl, by decide⟩

end Sys2Proof.Tests
end

section
/-! PROOFS. The invariant of the machine (60_exceptions.md R313, 10_state.md R29 to R50): it holds at reset, every write a
command is built from keeps it, and so does every step. -/

namespace Sys2Proof.Machine

/-! ### No decoder writes more than its room (44_fixed_block.md R171) -/

theorem emitSym_length_le {room : Nat} {c : Byte} {rest : Nat → Except Err Text} {out : Text}
    (h : emitSym room c rest = .ok out) (hrest : ∀ r o, rest r = .ok o → o.length ≤ r) : out.length ≤ room := by
  obtain ⟨r, o, rfl, ho, rfl⟩ := (emitSym_ok_iff ..).mp h
  simpa using hrest r o ho

theorem decodeGroups_length_le {symOf : BitSeq → Except Err Byte} {gs : List BitSeq} {room : Nat} {out : Text}
    (h : decodeGroups symOf gs room = .ok out) : out.length ≤ room := by
  induction gs generalizing room out with
  | nil => cases h; simp
  | cons g gs ih =>
    rw [decodeGroups] at h
    cases hg : symOf g with
    | error e => simp [hg] at h
    | ok c =>
      simp only [hg] at h
      exact emitSym_length_le h fun _ _ => ih

theorem decodeFixed_length_le {tcap : Nat} {bits : BitSeq} {out : Text} (h : decodeFixed tcap bits = .ok out) :
    out.length ≤ tcap := by
  unfold decodeFixed at h
  split at h
  · cases h
  · exact decodeGroups_length_le h

theorem decodeBlock_length_le {t : Table} {tcap : Nat} {bits : BitSeq} {out : Text}
    (h : decodeBlock t tcap bits = .ok out) : out.length ≤ tcap := by
  unfold decodeBlock at h
  split at h
  · cases h
  · exact decodeGroups_length_le h

theorem hufDecodeLeaf_length_le {sym : Byte} {bits : BitSeq} {room : Nat} {out : Text}
    (h : hufDecodeLeaf sym bits room = .ok out) : out.length ≤ room := by
  induction bits generalizing room out with
  | nil => cases h; simp
  | cons b bs ih =>
    rw [hufDecodeLeaf] at h
    split at h
    · cases h
    · exact emitSym_length_le h fun _ _ => ih

theorem hufWalk_length_le {hs : HufState} {t : Table} {bits : BitSeq} {cur : BitVec 9} {room : Nat} {out : Text}
    (h : hufWalk hs t bits cur room = .ok out) : out.length ≤ room := by
  induction bits generalizing cur room out with
  | nil =>
    rw [hufWalk] at h
    split at h <;> cases h
    simp
  | cons b bs ih =>
    rw [hufWalk] at h
    split at h
    · exact emitSym_length_le h fun _ _ => ih
    · exact ih h

theorem hufDecode_length_le {hs : HufState} {t : Table} {tcap : Nat} {bits : BitSeq} {out : Text}
    (h : hufDecode hs t tcap bits = .ok out) : out.length ≤ tcap := by
  unfold hufDecode at h
  split at h
  · exact hufDecodeLeaf_length_le h
  · exact hufWalk_length_le h

theorem sfDecode_length_le {st : SfState} {t : Table} {bits : BitSeq} {cand : List Nat} {read : BitSeq} {room : Nat}
    {out : Text} (h : sfDecode st t bits cand read room = .ok out) : out.length ≤ room := by
  induction bits generalizing cand read room out with
  | nil =>
    rw [sfDecode] at h
    split at h <;> cases h
    simp
  | cons b bs ih =>
    rw [sfDecode] at h
    split at h
    · cases h
    · split at h
      · exact emitSym_length_le h fun _ _ => ih
      · exact ih h

theorem arDecode_length_le {st : ArState} {t : Table} {eom : Byte} {room : Nat} {iv : Interval} {fd : BitFeed}
    {out : Text} (h : arDecode st t eom room iv fd = .ok out) : out.length ≤ room := by
  induction room generalizing iv fd out with
  | zero => rw [arDecode] at h; split at h <;> cases h
  | succ r ih =>
    rw [arDecode] at h
    split at h
    · cases h
    · dsimp only at h
      split at h
      · cases h; simp
      · split at h
        · cases h
        · split at h <;> cases h
          simpa using ih ‹_›

/-- A copy of R271 takes from the room what it adds to the output. -/
theorem lzCopy_length_add_room {d l : Nat} {rev : Text} {room : Nat} {r : Text × Nat}
    (h : lzCopy d l rev room = .ok r) : r.1.length + r.2 = rev.length + room := by
  induction l generalizing rev room with
  | zero => cases h; rfl
  | succ l ih =>
    cases room with
    | zero => cases h
    | succ room =>
      have := ih h
      simp only [List.length_cons] at this
      omega

theorem lzDecodeLoop_length_le {t : Table} {w : LzWidths} {f : Nat} {bits : BitSeq} {rev : Text} {room : Nat}
    {out : Text} (h : lzDecodeLoop t w f bits rev room = .ok out) : out.length ≤ rev.length + room := by
  induction f generalizing bits rev room with
  | zero => cases h; simp
  | succ f ih =>
    match bits with
    | [] => cases h; simp
    | true :: bs =>
      rw [lzDecodeLoop] at h
      split at h
      · cases h
      · dsimp only at h
        split at h
        · cases h
        · split at h
          · cases h
          · rename_i r hr
            rw [← lzCopy_length_add_room hr]
            exact ih h
    | false :: bs =>
      simp only [lzDecodeLoop] at h
      split at h
      · cases h
      · split at h
        · cases h
        · cases room with
          | zero => cases h
          | succ room =>
            have := ih h
            simp only [List.length_cons] at this
            omega

theorem lzDecode_length_le {t : Table} {win la tcap : Nat} {bits : BitSeq} {out : Text}
    (h : lzDecode t win la tcap bits = .ok out) : out.length ≤ tcap := by
  simpa using lzDecodeLoop_length_le h

theorem lzwReplay_length_le {ks : List Nat} {dict : List Text} {prev : Option Text} {room : Nat} {r : Text × Nat}
    (h : lzwReplay ks dict prev room = .ok r) : r.1.length ≤ room := by
  induction ks generalizing dict prev room r with
  | nil => cases h; simp
  | cons k ks ih =>
    rw [lzwReplay] at h
    split at h
    · cases h
    · split at h
      · cases h
      · dsimp only at h
        split at h <;> cases h
        rename_i hr
        have := ih hr
        simp only [List.length_append]
        omega

theorem lzwDecode_length_le {t : Table} {bs tcap : Nat} {bits : BitSeq} {r : Text × Nat}
    (h : lzwDecode t bs tcap bits = .ok r) : r.1.length ≤ tcap := by
  unfold lzwDecode at h
  split at h
  · split at h <;> cases h
    simp
  · split at h
    · cases h
    · exact lzwReplay_length_le h

/-! ### The table ST_BUILD commits (41_symbol_table.md R111) -/

/-- The bounds of the tolerance test, 1 percent about 2^31, in whole units. -/
theorem sumOutOfTolerance_eq_false_iff (S : Nat) :
    sumOutOfTolerance S = false ↔ 2126008812 ≤ S ∧ S ≤ 2168958484 := by
  simp only [sumOutOfTolerance, decide_eq_false_iff_not]
  omega

theorem copyFirst_take {α : Type} {m k : Nat} (new old : Vector α m) (h : k ≤ m) :
    (copyFirst k new old).toList.take k = new.toList.take k := by
  have hlen : (new.toList.take k).length = k := by simpa using h
  change (new.toList.take k ++ old.toList.drop k).take k = _
  rw [List.take_append_of_le_length hlen.ge, List.take_of_length_le hlen.le]

theorem builtTable_size (st : Staging) (old : Table) {na : Nat} (h : na ≤ 256) : (builtTable st old na).size = na := by
  simp only [builtTable, Table.size, BitVec.toNat_ofNat]
  omega

theorem builtTable_weights (st : Staging) (old : Table) {na : Nat} (h : na ≤ 256) :
    (builtTable st old na).weights = (st.w.toList.take na).map BitVec.toNat := by
  rw [Table.weights, builtTable_size st old h]
  exact congrArg _ (copyFirst_take st.w old.w h)

theorem builtTable_wf (st : Staging) (old : Table) {na : Nat} (h : na ≤ 256)
    (htol : sumOutOfTolerance (stagedSum st na) = false) : (builtTable st old na).wf := by
  intro _
  obtain ⟨hlo, hhi⟩ := (sumOutOfTolerance_eq_false_iff _).mp htol
  have htotal : (builtTable st old na).total = stagedSum st na := by
    simp only [builtTable, Table.total, BitVec.toNat_ofNat]
    omega
  have hpos : na ≠ 0 := by
    rintro rfl
    simp [stagedSum] at hlo
  rw [builtTable_size st old h, htotal, builtTable_weights st old h]
  exact ⟨by omega, h, rfl, hlo, hhi⟩

/-! ### The writes a command is built from keep the invariant -/

theorem Status.reset_ok : Status.reset.ok := ⟨⟨none, rfl, rfl⟩, fun h => absurd rfl h⟩

theorem resetFor_inv {p : Params} (h : p.ok) : (State.resetFor p).Inv where
  params := h
  buffers := memory_reset_wf p
  table := nofun
  derived := ⟨nofun, nofun, nofun⟩
  status := Status.reset_ok

namespace State.Inv

variable {s : State} (h : s.Inv)
include h

theorem putBs (b : BufIdx) {v : BitSeq} (hv : v.length ≤ s.cap.bcap) : (s.putBs b v).Inv :=
  { h with buffers := setBs_wf h.buffers b hv }

theorem putTx (b : BufIdx) {v : Text} (hv : v.length ≤ s.cap.tcap) : (s.putTx b v).Inv :=
  { h with buffers := setTx_wf h.buffers b hv }

theorem hufBuilt (ht : s.table.valid = true) :
    { s with huf := hufBuild s.table, valid := { s.valid with huf := true } }.Inv :=
  { h with derived := ⟨fun _ => ⟨ht, rfl⟩, h.derived.2⟩ }

theorem sfBuilt (ht : s.table.valid = true) :
    { s with sf := sfBuild s.table, valid := { s.valid with sf := true } }.Inv :=
  { h with derived := ⟨h.derived.1, fun _ => ⟨ht, rfl⟩, h.derived.2.2⟩ }

theorem arBuilt (ht : s.table.valid = true) :
    { s with ar := arBuild s.table, valid := { s.valid with arith := true } }.Inv :=
  { h with derived := ⟨h.derived.1, h.derived.2.1, fun _ => ⟨ht, rfl⟩⟩ }

/-- Whatever table is committed, no VALID[2..4] bit vouches for derived state any more (R50). -/
theorem tableCommitted {t : Table} (ht : t.wf) :
    { s with table := t, valid := { s.valid with huf := false, sf := false, arith := false } }.Inv :=
  { h with table := ht, derived := ⟨nofun, nofun, nofun⟩ }

/-- Completion records a pair of the error tables, and an error in ANYERR (R313). -/
theorem complete (r : Option Err) : (complete r s).Inv :=
  { h with
    status := ⟨⟨r, rfl, rfl⟩, fun he => by
      have hr : r ≠ none := fun hr => he (by simp [hr, kindOf])
      simp [Option.isSome_iff_ne_none.mpr hr]⟩ }

theorem turnTaken (ts : List Turn) : { s with turns := ts }.Inv := { h with }

theorem platformReset : (platformReset s).Inv := { resetFor_inv h.params with }

theorem hostAccess (a : HostAccess) : (hostAccess a s).Inv := by
  cases a with
  | read off => exact { h with }
  | write off v =>
    simp only [Machine.hostAccess, portWrite, writeCmd]
    split_ifs <;> exact { h with }

end State.Inv

/-! ### Every rule keeps it -/

/-- The commands that only read, NOP and the averages write at most the result registers (R66). -/
theorem ruleOf_read_ok {i : Instr} {s t : State} (hi : isReadCommand i = true) (h : ruleOf i s = .ok t) :
    ∃ r0 r1, t = { s with res0 := r0, res1 := r1 } := by
  cases i
  case nop | avgFixed => exact ⟨_, _, (Except.ok.inj h).symm⟩
  case regRd =>
    simp only [ruleOf, ruleRegRd] at h
    split at h
    · cases h
    · exact ⟨_, _, (Except.ok.inj h).symm⟩
  case bsGet | txGet =>
    simp only [ruleOf, ruleBsGet, ruleTxGet, withBs_ok_iff, withTx_ok_iff] at h
    obtain ⟨-, h⟩ := h
    split at h
    · cases h
    · exact ⟨_, _, (Except.ok.inj h).symm⟩
  case bsLen | txLen =>
    simp only [ruleOf, ruleBsLen, ruleTxLen, withBs_ok_iff, withTx_ok_iff] at h
    exact ⟨_, _, (Except.ok.inj h.2).symm⟩
  case stSize | avgBlock =>
    simp only [ruleOf, ruleStSize, ruleAvgBlock, withTable_ok_iff] at h
    exact ⟨_, _, (Except.ok.inj h.2).symm⟩
  case stSymat | stIndexof | stProbat =>
    simp only [ruleOf, ruleStSymat, ruleStIndexof, ruleStProbat, withTable_ok_iff] at h
    obtain ⟨-, h⟩ := h
    split at h
    · cases h
    · exact ⟨_, _, (Except.ok.inj h).symm⟩
  case avgHuf | avgSf =>
    simp only [ruleOf, ruleAvgHuf, ruleAvgSf, withTable_ok_iff, withState_ok_iff] at h
    obtain ⟨-, -, h⟩ := h
    exact ⟨_, _, (Except.ok.inj h).symm⟩
  all_goals cases hi

theorem ruleRegWr_inv {s t : State} (hs : s.Inv) (h : ruleRegWr s = .ok t) : t.Inv := by
  unfold ruleRegWr at h
  split at h
  · cases h
  · rename_i r _
    cases r <;> cases h <;> exact { hs with }

theorem ruleStStage_inv {s t : State} (hs : s.Inv) (h : ruleStStage s = .ok t) : t.Inv := by
  unfold ruleStStage at h
  split at h <;> cases h
  exact { hs with }

theorem ruleStBuild_inv {s t : State} (hs : s.Inv) (h : ruleStBuild s = .ok t) : t.Inv := by
  unfold ruleStBuild at h
  split_ifs at h with _ hmany htol
  cases h
  exact hs.tableCommitted (builtTable_wf _ _ (Nat.le_of_not_lt hmany) (Bool.eq_false_of_not_eq_true htol))

theorem ruleBsClear_inv {a : BufIdx} {s t : State} (hs : s.Inv) (h : ruleBsClear a s = .ok t) : t.Inv := by
  obtain ⟨-, h⟩ := withBs_ok_iff.mp h
  cases h
  exact hs.putBs a (Nat.zero_le _)

theorem ruleBsPop_inv {a : BufIdx} {s t : State} (hs : s.Inv) (h : ruleBsPop a s = .ok t) : t.Inv := by
  obtain ⟨-, h⟩ := withBs_ok_iff.mp h
  split at h <;> cases h
  exact hs.putBs a ((List.dropLast_sublist _).length_le.trans (getBs_length_le hs.buffers a))

theorem ruleBsSet_inv {a : BufIdx} {s t : State} (hs : s.Inv) (h : ruleBsSet a s = .ok t) : t.Inv := by
  obtain ⟨-, h⟩ := withBs_ok_iff.mp h
  split at h <;> cases h
  exact hs.putBs a ((List.length_set ..).le.trans (getBs_length_le hs.buffers a))

theorem ruleBsRender_inv {a b : BufIdx} {s t : State} (hs : s.Inv) (h : ruleBsRender a b s = .ok t) : t.Inv := by
  obtain ⟨-, h⟩ := withTx_ok_iff.mp h
  obtain ⟨-, h⟩ := withBs_ok_iff.mp h
  split_ifs at h with hfull
  cases h
  exact hs.putTx a (Nat.le_of_not_lt hfull)

theorem ruleTxClear_inv {a : BufIdx} {s t : State} (hs : s.Inv) (h : ruleTxClear a s = .ok t) : t.Inv := by
  obtain ⟨-, h⟩ := withTx_ok_iff.mp h
  cases h
  exact hs.putTx a (Nat.zero_le _)

theorem ruleTxPush_inv {a : BufIdx} {s t : State} (hs : s.Inv) (h : ruleTxPush a s = .ok t) : t.Inv := by
  obtain ⟨-, h⟩ := withTx_ok_iff.mp h
  split_ifs at h with hfull
  cases h
  exact hs.putTx a (by simpa using Nat.le_of_not_lt hfull)

theorem ruleTxSet_inv {a : BufIdx} {s t : State} (hs : s.Inv) (h : ruleTxSet a s = .ok t) : t.Inv := by
  obtain ⟨-, h⟩ := withTx_ok_iff.mp h
  split at h <;> cases h
  exact hs.putTx a ((List.length_set ..).le.trans (getTx_length_le hs.buffers a))

/-- Every command's effects keep the invariant: the readers by what they write, the others by the write each commits. -/
theorem ruleOf_inv {i : Instr} {s t : State} (hs : s.Inv) (h : ruleOf i s = .ok t) : t.Inv := by
  by_cases hi : isReadCommand i = true
  · obtain ⟨r0, r1, rfl⟩ := ruleOf_read_ok hi h
    exact { hs with }
  cases i
  case regWr => exact ruleRegWr_inv hs h
  case stStage => exact ruleStStage_inv hs h
  case stBuild => exact ruleStBuild_inv hs h
  case bsClear => exact ruleBsClear_inv hs h
  case bsPop => exact ruleBsPop_inv hs h
  case bsSet => exact ruleBsSet_inv hs h
  case bsRender => exact ruleBsRender_inv hs h
  case txClear => exact ruleTxClear_inv hs h
  case txPush => exact ruleTxPush_inv hs h
  case txSet => exact ruleTxSet_inv hs h
  case bsAppb a =>
    obtain ⟨-, hfit, rfl⟩ := ruleBsAppb_ok_iff.mp h
    exact hs.putBs a (by simpa using hfit)
  case bsAppu8 a | bsAppu16 a | bsAppu32 a | bsAppu64 a =>
    obtain ⟨-, hfit, rfl⟩ := ruleBsAppu_ok_iff.mp h
    exact hs.putBs a (by simpa using hfit)
  case bsCat a b =>
    obtain ⟨-, -, hfit, rfl⟩ := ruleBsCat_ok_iff.mp h
    exact hs.putBs a (by simpa using hfit)
  case bsAppt a b =>
    obtain ⟨-, -, hfit, rfl⟩ := ruleBsAppt_ok_iff.mp h
    exact hs.putBs a (by simpa using hfit)
  case encFixed a b =>
    obtain ⟨-, -, hfit, rfl⟩ := ruleEncFixed_ok_iff.mp h
    exact hs.putBs a hfit
  case encBlock a b =>
    obtain ⟨-, -, -, idx, -, hfit, rfl⟩ := ruleEncBlock_ok_iff.mp h
    exact hs.putBs a hfit
  case encHuf a b =>
    obtain ⟨-, -, ht, idx, -, hfit, rfl⟩ := ruleEncHuf_ok_iff.mp h
    exact (hs.hufBuilt ht).putBs a hfit
  case encSf a b =>
    obtain ⟨-, -, ht, idx, -, -, hfit, rfl⟩ := ruleEncSf_ok_iff.mp h
    exact (hs.sfBuilt ht).putBs a hfit
  case encArith a b =>
    obtain ⟨-, -, ht, -, idx, -, out, -, hfit, rfl⟩ := ruleEncArith_ok_iff.mp h
    exact (hs.arBuilt ht).putBs a hfit
  case encLz77 a b =>
    obtain ⟨-, -, -, idx, -, hfit, rfl⟩ := ruleEncLz77_ok_iff.mp h
    exact { hs.putBs a hfit with }
  case encLzw a b =>
    obtain ⟨-, -, -, -, -, hfit, rfl⟩ := ruleEncLzw_ok_iff.mp h
    exact { hs.putBs a hfit with }
  case prepHuf =>
    obtain ⟨ht, rfl⟩ := rulePrepHuf_ok_iff.mp h
    exact hs.hufBuilt ht
  case prepSf =>
    obtain ⟨ht, rfl⟩ := rulePrepSf_ok_iff.mp h
    exact hs.sfBuilt ht
  case prepArith =>
    obtain ⟨ht, rfl⟩ := rulePrepArith_ok_iff.mp h
    exact hs.arBuilt ht
  case decFixed a b =>
    obtain ⟨-, -, x, hx, rfl⟩ := ruleDecFixed_ok_iff.mp h
    exact hs.putTx a (decodeFixed_length_le hx)
  case decBlock a b =>
    obtain ⟨-, -, -, x, hx, rfl⟩ := ruleDecBlock_ok_iff.mp h
    exact hs.putTx a (decodeBlock_length_le hx)
  case decHuf a b =>
    obtain ⟨-, -, -, -, x, hx, rfl⟩ := ruleDecHuf_ok_iff.mp h
    exact hs.putTx a (hufDecode_length_le hx)
  case decSf a b =>
    obtain ⟨-, -, -, -, x, hx, rfl⟩ := ruleDecSf_ok_iff.mp h
    exact hs.putTx a (sfDecode_length_le hx)
  case decArith a b =>
    obtain ⟨-, -, -, -, -, x, hx, rfl⟩ := ruleDecArith_ok_iff.mp h
    exact hs.putTx a (arDecode_length_le hx)
  case decLz77 a b =>
    obtain ⟨-, -, -, -, x, hx, rfl⟩ := ruleDecLz77_ok_iff.mp h
    exact hs.putTx a (lzDecode_length_le hx)
  case decLzw a b =>
    obtain ⟨-, -, -, -, -, r, hr, rfl⟩ := ruleDecLzw_ok_iff.mp h
    exact { hs.putTx a (lzwDecode_length_le hr) with }
  all_goals exact absurd rfl hi

/-! ### Every step keeps it -/

theorem finish_inv {s t : State} {r : Except Err State} (hs : s.Inv) (hr : ∀ s', r = .ok s' → s'.Inv)
    (h : finish s r = .next t) : t.Inv := by
  obtain ⟨s', hs', rfl⟩ | ⟨e, -, rfl⟩ := finish_cases h
  · exact (hr s' hs').complete none
  · exact hs.complete (some e)

theorem exec_inv {i : Instr} {s t : State} (hs : s.Inv) (h : exec i s = .next t) : t.Inv :=
  finish_inv hs (fun _ => ruleOf_inv hs) (exec_eq_finish i s ▸ h)

theorem sequencerStep_inv {s t : State} (hs : s.Inv) (h : sequencerStep s = .next t) : t.Inv := by
  unfold sequencerStep at h
  split at h
  · split at h
    · exact exec_inv hs h
    · exact finish_inv hs (fun _ hr => by cases hr) h
  · cases h
    exact hs

/-- Settles O58: the sequencer's turn by the command's rule and its completion, the other agents' turns by the writes
they make. -/
theorem everyStepKeepsTheInvariant : Obligations.EveryStepKeepsTheInvariant := by
  intro s t hs h
  unfold step at h
  split at h
  · exact sequencerStep_inv hs h
  · exact sequencerStep_inv (hs.turnTaken _) h
  · cases h
    exact (hs.turnTaken _).hostAccess _
  · cases h
    exact (hs.turnTaken _).platformReset

/-- Settles O59: the default parameters are legal. -/
theorem invariantHoldsAfterReset : Obligations.InvariantHoldsAfterReset :=
  ⟨fun _ => resetFor_inv, resetFor_inv (by decide)⟩

end Sys2Proof.Machine
end

section
/-! PROOFS. The Shannon-Fano code (46_shannon_fano.md R215 to R218): what the builder's loop leaves for each symbol, the
cumulative weights in the order of R18, and why no codeword begins another. -/

namespace Sys2Proof.Machine

/-! ### The order of R18 -/

/-- `i` comes before `j` in R18's order: it is heavier, or of equal weight and of lower index. -/
def SortsBefore (w : Nat → Nat) (i j : Nat) : Prop := w j < w i ∨ (w i = w j ∧ i < j)

theorem SortsBefore.asymm {w : Nat → Nat} {i j : Nat} (h : SortsBefore w i j) : ¬ SortsBefore w j i := by
  unfold SortsBefore at *
  omega

theorem SortsBefore.trans {w : Nat → Nat} {i j k : Nat} (h : SortsBefore w i j) (h' : SortsBefore w j k) :
    SortsBefore w i k := by
  unfold SortsBefore at *
  omega

theorem sortsBefore_total {w : Nat → Nat} {i j : Nat} (h : i ≠ j) : SortsBefore w i j ∨ SortsBefore w j i := by
  unfold SortsBefore
  omega

/-- Inserting an index below all those of a sorted list keeps it sorted: it goes before its equals. -/
theorem orderedInsert_sortsBefore {w : Nat → Nat} {i : Nat} {l : List Nat} (hl : l.Pairwise (SortsBefore w))
    (hi : ∀ j ∈ l, i < j) : (l.orderedInsert (fun a b => w b ≤ w a) i).Pairwise (SortsBefore w) := by
  induction l with
  | nil => exact List.pairwise_singleton _ _
  | cons j l ih =>
    obtain ⟨hj, hl'⟩ := List.pairwise_cons.mp hl
    obtain ⟨hij, hil⟩ := List.forall_mem_cons.mp hi
    rw [List.orderedInsert_cons]
    split
    · rename_i hle
      have hbefore : SortsBefore w i j := by unfold SortsBefore; omega
      exact List.pairwise_cons.mpr ⟨List.forall_mem_cons.mpr ⟨hbefore, fun k hk => hbefore.trans (hj k hk)⟩, hl⟩
    · rename_i hlt
      refine List.pairwise_cons.mpr ⟨fun k hk => ?_, ih hl' hil⟩
      rcases (List.mem_orderedInsert _).mp hk with rfl | hk
      · exact Or.inl (Nat.lt_of_not_le hlt)
      · exact hj k hk

/-- Stability: an ascending list of indices is sorted by R18's strict order. -/
theorem insertionSort_sortsBefore {w : Nat → Nat} {l : List Nat} (hl : l.Pairwise (· < ·)) :
    (l.insertionSort (fun a b => w b ≤ w a)).Pairwise (SortsBefore w) := by
  induction l with
  | nil => exact List.Pairwise.nil
  | cons i l ih =>
    obtain ⟨hi, hl'⟩ := List.pairwise_cons.mp hl
    exact orderedInsert_sortsBefore (ih hl') fun j hj => hi j ((List.mem_insertionSort _).mp hj)

theorem stableSortDesc_sortsBefore (ws : List Nat) :
    (stableSortDesc ws).Pairwise (SortsBefore fun i => ws.getD i 0) :=
  insertionSort_sortsBefore List.pairwise_lt_range

theorem stableSortDesc_nodup (ws : List Nat) : (stableSortDesc ws).Nodup :=
  (stableSortDesc_perm ws).nodup_iff.mpr List.nodup_range

/-! ### The table's weights (R32) -/

theorem Table.weights_length {t : Table} (h : t.size ≤ 256) : t.weights.length = t.size := by
  simpa [Table.weights] using h

theorem Table.weightAt_eq (t : Table) : t.weightAt = fun i => t.weights.getD i 0 := rfl

theorem Table.weights_eq_map_range {t : Table} (h : t.size ≤ 256) :
    t.weights = (List.range t.size).map t.weightAt := by
  refine List.ext_getElem (by simp [Table.weights_length h]) fun i hi _ => ?_
  simp [Table.weightAt, List.getD, hi]

theorem sum_stableSortDesc {t : Table} (h : t.size ≤ 256) :
    ((stableSortDesc t.weights).map t.weightAt).sum = t.weights.sum := by
  rw [((stableSortDesc_perm t.weights).map t.weightAt).sum_eq, Table.weights_length h,
    ← Table.weights_eq_map_range h]

/-- The cumulative weight of R215: that of the symbols sorted before `i`. -/
theorem sum_filter_sortsBefore {t : Table} (h : t.size ≤ 256) {pre post : List Nat} {i : Nat} {p : Nat → Bool}
    (hp : ∀ j, p j = true ↔ SortsBefore t.weightAt j i) (ho : stableSortDesc t.weights = pre ++ i :: post) :
    (((List.range t.size).filter p).map t.weightAt).sum = (pre.map t.weightAt).sum := by
  have hperm : (List.range t.size).Perm (pre ++ i :: post) := by
    rw [← ho, ← Table.weights_length h]
    exact (stableSortDesc_perm t.weights).symm
  have hsorted := stableSortDesc_sortsBefore t.weights
  rw [ho, List.pairwise_append, List.pairwise_cons] at hsorted
  obtain ⟨-, ⟨hpost, -⟩, hpre⟩ := hsorted
  have hfilter : (pre ++ i :: post).filter p = pre := by
    have hkeep : pre.filter p = pre :=
      List.filter_eq_self.mpr fun j hj => (hp j).mpr (hpre j hj i List.mem_cons_self)
    have hdrop : (i :: post).filter p = [] := by
      refine List.filter_eq_nil_iff.mpr fun j hj => fun hpj => ?_
      rcases List.mem_cons.mp hj with rfl | hj
      · exact ((hp j).mp hpj).asymm ((hp j).mp hpj)
      · exact ((hp j).mp hpj).asymm (hpost j hj)
    rw [List.filter_append, hkeep, hdrop, List.append_nil]
  rw [((hperm.filter p).map t.weightAt).sum_eq, hfilter]

/-! ### Code lengths (R215) -/

theorem sfLength_le_iff {w S L : Nat} (hw : 0 < w) (hL : 1 ≤ L) : sfLength w S ≤ L ↔ S ≤ w * 2 ^ L := by
  have hceil : (S + w - 1) / w ≤ 2 ^ L ↔ S ≤ w * 2 ^ L := by
    rw [Nat.div_le_iff_le_mul_add_pred hw]
    omega
  rw [← hceil]
  constructor
  · intro h
    exact (le_two_pow_clog2 _).trans (Nat.pow_le_pow_right (by decide) ((le_max_right _ _).trans h))
  · exact fun h => max_le hL (clog2_le_of_le_two_pow h)

theorem one_le_sfLength (w S : Nat) : 1 ≤ sfLength w S := le_max_left _ _

theorem le_mul_two_pow_sfLength {w : Nat} (S : Nat) (hw : 0 < w) : S ≤ w * 2 ^ sfLength w S :=
  (sfLength_le_iff hw (one_le_sfLength w S)).mp le_rfl

theorem sfLength_le_32 {w S : Nat} (hw : 0 < w) (hS : S < 2 ^ 32) : sfLength w S ≤ 32 :=
  (sfLength_le_iff hw (by decide)).mpr (hS.le.trans (Nat.le_mul_of_pos_left _ hw))

/-- A heavier symbol has no longer codeword (R218). -/
theorem sfLength_anti {v w S : Nat} (hv : 0 < v) (h : v ≤ w) : sfLength w S ≤ sfLength v S :=
  (sfLength_le_iff (hv.trans_le h) (one_le_sfLength v S)).mpr
    ((le_mul_two_pow_sfLength S hv).trans (Nat.mul_le_mul_right _ h))

/-! ### What the builder's loop leaves (R215, R216) -/

/-- SF_CODE[i]. -/
def SfState.codeAt (st : SfState) (i : Nat) : Nat := (st.code.toList.getD i 0).toNat

theorem SfState.codeword_eq (st : SfState) (i : Nat) : st.codeword i = uBits (st.codeAt i) (st.lenAt i) := rfl

theorem SfState.lenAt_setLen_same (st : SfState) {i : Nat} (v : Nat) (h : i < 256) :
    (st.setLen i v).lenAt i = v % 2 ^ 6 := by
  simp [SfState.lenAt, SfState.setLen, List.getD, h]

theorem SfState.lenAt_setLen_ne (st : SfState) {i j : Nat} (v : Nat) (h : i ≠ j) :
    (st.setLen i v).lenAt j = st.lenAt j := by
  simp [SfState.lenAt, SfState.setLen, List.getD, List.getElem?_set_ne h]

theorem SfState.codeAt_setCode_same (st : SfState) {i : Nat} (v : Nat) (h : i < 256) :
    (st.setCode i v).codeAt i = v % 2 ^ 32 := by
  simp [SfState.codeAt, SfState.setCode, List.getD, h]

theorem SfState.codeAt_setCode_ne (st : SfState) {i j : Nat} (v : Nat) (h : i ≠ j) :
    (st.setCode i v).codeAt j = st.codeAt j := by
  simp [SfState.codeAt, SfState.setCode, List.getD, List.getElem?_set_ne h]

@[simp] theorem SfState.lenAt_setCode (st : SfState) (i j v : Nat) : (st.setCode i v).lenAt j = st.lenAt j := rfl

@[simp] theorem SfState.codeAt_setLen (st : SfState) (i j v : Nat) : (st.setLen i v).codeAt j = st.codeAt j := rfl

/-- One symbol's part of the loop. -/
def sfAssign (t : Table) (i cum : Nat) (st : SfState) : SfState :=
  if t.weightAt i = 0 then st.setLen i 0
  else
    (st.setLen i (sfLength (t.weightAt i) t.total)).setCode i (cum * 2 ^ sfLength (t.weightAt i) t.total / t.total)

theorem sfLoop_cons (t : Table) (i : Nat) (is : List Nat) (cum : Nat) (st : SfState) :
    sfLoop t (i :: is) cum st = sfLoop t is (cum + t.weightAt i) (sfAssign t i cum st) := rfl

theorem sfAssign_ne (t : Table) {i j : Nat} (cum : Nat) (st : SfState) (h : i ≠ j) :
    (sfAssign t i cum st).lenAt j = st.lenAt j ∧ (sfAssign t i cum st).codeAt j = st.codeAt j := by
  unfold sfAssign
  split <;> simp [SfState.lenAt_setLen_ne _ _ h, SfState.codeAt_setCode_ne _ _ h]

theorem sfLoop_of_notMem (t : Table) {l : List Nat} {i : Nat} (cum : Nat) (st : SfState) (h : i ∉ l) :
    (sfLoop t l cum st).lenAt i = st.lenAt i ∧ (sfLoop t l cum st).codeAt i = st.codeAt i := by
  induction l generalizing cum st with
  | nil => exact ⟨rfl, rfl⟩
  | cons j l ih =>
    obtain ⟨hj, hl⟩ := List.ne_and_not_mem_of_not_mem_cons h
    obtain ⟨hlen, hcode⟩ := ih (cum + t.weightAt j) (sfAssign t j cum st) hl
    obtain ⟨hlen', hcode'⟩ := sfAssign_ne t cum st (Ne.symm hj)
    exact ⟨hlen.trans hlen', hcode.trans hcode'⟩

theorem sfLoop_append (t : Table) (pre l : List Nat) (cum : Nat) (st : SfState) :
    sfLoop t (pre ++ l) cum st = sfLoop t l (cum + (pre.map t.weightAt).sum) (sfLoop t pre cum st) := by
  induction pre generalizing cum st with
  | nil => rfl
  | cons j pre ih =>
    rw [List.cons_append, sfLoop_cons, ih, ← sfLoop_cons, List.map_cons, List.sum_cons, Nat.add_assoc]

/-- The loop leaves a symbol what its own turn assigned it, the symbols before it giving the cumulative weight. -/
theorem sfBuild_at {t : Table} {pre post : List Nat} {i : Nat} (ho : stableSortDesc t.weights = pre ++ i :: post) :
    ∃ st, (sfBuild t).lenAt i = (sfAssign t i (pre.map t.weightAt).sum st).lenAt i ∧
      (sfBuild t).codeAt i = (sfAssign t i (pre.map t.weightAt).sum st).codeAt i := by
  have hnodup := stableSortDesc_nodup t.weights
  rw [ho, List.nodup_append, List.nodup_cons] at hnodup
  obtain ⟨-, ⟨hpost, -⟩, -⟩ := hnodup
  rw [sfBuild, ho, sfLoop_append, sfLoop_cons, Nat.zero_add]
  exact ⟨_, sfLoop_of_notMem t _ _ hpost⟩

section
variable {t : Table} (hwf : t.wf) (hv : t.valid = true)
include hwf hv

theorem cum_add_weightAt_le_total {pre post : List Nat} {i : Nat}
    (ho : stableSortDesc t.weights = pre ++ i :: post) : (pre.map t.weightAt).sum + t.weightAt i ≤ t.total := by
  obtain ⟨-, hsize, htotal, -⟩ := hwf hv
  rw [htotal, ← sum_stableSortDesc hsize, ho]
  simp only [List.map_append, List.map_cons, List.sum_append, List.sum_cons]
  omega

theorem lt_size_of_split {pre post : List Nat} {i : Nat} (ho : stableSortDesc t.weights = pre ++ i :: post) :
    i < t.size := by
  rw [← Table.weights_length (hwf hv).2.1, ← mem_stableSortDesc, ho]
  simp

theorem total_lt : t.total < 2 ^ 32 := by
  obtain ⟨-, -, -, -, hhi⟩ := hwf hv
  omega

theorem total_pos : 0 < t.total := by
  obtain ⟨-, -, -, hlo, -⟩ := hwf hv
  omega

theorem exists_split {i : Nat} (hi : i < t.size) : ∃ pre post, stableSortDesc t.weights = pre ++ i :: post := by
  rw [← Table.weights_length (hwf hv).2.1] at hi
  exact List.append_of_mem (mem_stableSortDesc.mpr hi)

theorem exists_split_of_sortsBefore {i j : Nat} (hi : i < t.size) (hj : j < t.size)
    (h : SortsBefore t.weightAt i j) :
    ∃ pre mid post, stableSortDesc t.weights = pre ++ i :: mid ++ j :: post := by
  obtain ⟨pre, post, ho⟩ := exists_split hwf hv hj
  have hsorted := stableSortDesc_sortsBefore t.weights
  have hmem : i ∈ stableSortDesc t.weights := by
    rwa [mem_stableSortDesc, Table.weights_length (hwf hv).2.1]
  rw [ho, List.pairwise_append, List.pairwise_cons] at hsorted
  obtain ⟨-, ⟨hpost, -⟩, -⟩ := hsorted
  rw [ho, List.mem_append, List.mem_cons] at hmem
  rcases hmem with hpre | rfl | hpost'
  · obtain ⟨pre', mid, rfl⟩ := List.append_of_mem hpre
    exact ⟨pre', mid, post, ho⟩
  · exact absurd h h.asymm
  · exact absurd (hpost i hpost') h.asymm

theorem sfBuild_lenAt_of_weight_zero {i : Nat} (hi : i < t.size) (hw : t.weightAt i = 0) :
    (sfBuild t).lenAt i = 0 := by
  obtain ⟨pre, post, ho⟩ := exists_split hwf hv hi
  obtain ⟨st, hlen, -⟩ := sfBuild_at ho
  rw [hlen, sfAssign, if_pos hw, SfState.lenAt_setLen_same _ _ (hi.trans_le (hwf hv).2.1)]
  rfl

theorem sfBuild_lenAt {i : Nat} (hi : i < t.size) (hw : 0 < t.weightAt i) :
    (sfBuild t).lenAt i = sfLength (t.weightAt i) t.total := by
  obtain ⟨pre, post, ho⟩ := exists_split hwf hv hi
  obtain ⟨st, hlen, -⟩ := sfBuild_at ho
  have hle := sfLength_le_32 hw (total_lt hwf hv)
  rw [hlen, sfAssign, if_neg hw.ne', SfState.lenAt_setCode,
    SfState.lenAt_setLen_same _ _ (hi.trans_le (hwf hv).2.1), Nat.mod_eq_of_lt (by omega)]

/-- The quotient of R215 fits its length. -/
theorem sfQuotient_lt {pre post : List Nat} {i : Nat} (ho : stableSortDesc t.weights = pre ++ i :: post)
    (hw : 0 < t.weightAt i) (L : Nat) : (pre.map t.weightAt).sum * 2 ^ L / t.total < 2 ^ L := by
  have hcum := cum_add_weightAt_le_total hwf hv ho
  exact Nat.div_lt_of_lt_mul (Nat.mul_lt_mul_of_pos_right (by omega) (Nat.two_pow_pos L))

theorem sfBuild_codeAt {pre post : List Nat} {i : Nat} (ho : stableSortDesc t.weights = pre ++ i :: post)
    (hw : 0 < t.weightAt i) :
    (sfBuild t).codeAt i = (pre.map t.weightAt).sum * 2 ^ (sfBuild t).lenAt i / t.total := by
  have hi := lt_size_of_split hwf hv ho
  obtain ⟨st, -, hcode⟩ := sfBuild_at ho
  have hlt := (sfQuotient_lt hwf hv ho hw (sfLength (t.weightAt i) t.total)).trans_le
    (Nat.pow_le_pow_right (by decide) (sfLength_le_32 hw (total_lt hwf hv)))
  rw [hcode, sfAssign, if_neg hw.ne', SfState.codeAt_setCode_same _ _ (hi.trans_le (hwf hv).2.1),
    Nat.mod_eq_of_lt hlt, sfBuild_lenAt hwf hv hi hw]

theorem sfBuild_codeAt_lt {i : Nat} (hi : i < t.size) (hw : 0 < t.weightAt i) :
    (sfBuild t).codeAt i < 2 ^ (sfBuild t).lenAt i := by
  obtain ⟨pre, post, ho⟩ := exists_split hwf hv hi
  rw [sfBuild_codeAt hwf hv ho hw]
  exact sfQuotient_lt hwf hv ho hw _

/-- The idea of R218: of two symbols, in the first `L` bits of the expansion of `cum / S` the later one is strictly
greater once `2^L` times the earlier one's weight reaches `S`. -/
theorem sfQuotient_lt_of_sortsBefore {i j L : Nat} (hi : i < t.size) (hj : j < t.size)
    (hwi : 0 < t.weightAt i) (hwj : 0 < t.weightAt j) (h : SortsBefore t.weightAt i j)
    (hL : t.total ≤ t.weightAt i * 2 ^ L) :
    ∃ ci cj, (sfBuild t).codeAt i = ci * 2 ^ (sfBuild t).lenAt i / t.total ∧
      (sfBuild t).codeAt j = cj * 2 ^ (sfBuild t).lenAt j / t.total ∧
      ci * 2 ^ L / t.total < cj * 2 ^ L / t.total := by
  obtain ⟨pre, mid, post, ho⟩ := exists_split_of_sortsBefore hwf hv hi hj h
  refine ⟨_, _, sfBuild_codeAt hwf hv (by rw [ho, List.append_assoc, List.cons_append]) hwi,
    sfBuild_codeAt hwf hv ho hwj, ?_⟩
  rw [List.map_append, List.sum_append, List.map_cons, List.sum_cons]
  set c := (pre.map t.weightAt).sum
  set m := (mid.map t.weightAt).sum
  calc c * 2 ^ L / t.total < (c * 2 ^ L + t.total) / t.total := by
        rw [Nat.add_div_right _ (total_pos hwf hv)]
        exact Nat.lt_succ_self _
    _ ≤ (c + (t.weightAt i + m)) * 2 ^ L / t.total := by
        refine Nat.div_le_div_right ?_
        rw [Nat.add_mul, Nat.add_mul]
        omega

end

/-! ### Leading bits of fields -/

theorem getElem_uBits (v w i : Nat) (h : i < (uBits v w).length) : (uBits v w)[i] = v.testBit (w - 1 - i) := by
  induction w generalizing i with
  | zero => simp at h
  | succ w ih =>
    cases i with
    | zero => rfl
    | succ i =>
      have hi : i < (uBits v w).length := by simpa using h
      rw [show (uBits v (w + 1))[i + 1] = (uBits v w)[i] from rfl, ih i hi]
      congr 1
      omega

theorem uBits_take (v : Nat) {m n : Nat} (h : m ≤ n) : (uBits v n).take m = uBits (v / 2 ^ (n - m)) m := by
  refine List.ext_getElem (by simpa using h) fun i hi _ => ?_
  have him : i < m := by simp at hi; omega
  rw [List.getElem_take, getElem_uBits, getElem_uBits, Nat.testBit_div_two_pow]
  congr 1
  omega

/-- A field that another begins with holds the other's leading bits. -/
theorem uBits_prefix {u v m n : Nat} (hu : u < 2 ^ m) (hv : v < 2 ^ n) (h : uBits u m <+: uBits v n) :
    m ≤ n ∧ u = v / 2 ^ (n - m) := by
  have hmn : m ≤ n := by simpa using h.length_le
  have hquot : v / 2 ^ (n - m) < 2 ^ m := by
    rw [Nat.div_lt_iff_lt_mul (Nat.two_pow_pos _), ← Nat.pow_add, Nat.add_sub_cancel' hmn]
    exact hv
  have htake := List.prefix_iff_eq_take.mp h
  rw [uBits_length, uBits_take v hmn] at htake
  refine ⟨hmn, ?_⟩
  rw [← uVal_uBits hu, htake, uVal_uBits hquot]

/-- The leading bits of a quotient of R215 are the quotient for fewer bits. -/
theorem sfQuotient_div (c S : Nat) {m n : Nat} (h : m ≤ n) : c * 2 ^ n / S / 2 ^ (n - m) = c * 2 ^ m / S := by
  obtain ⟨d, rfl⟩ := Nat.exists_eq_add_of_le h
  rw [Nat.add_sub_cancel_left, Nat.div_div_eq_div_mul, Nat.pow_add, ← Nat.mul_assoc,
    Nat.mul_div_mul_right _ _ (Nat.two_pow_pos d)]

theorem sfBuild_codeword_not_prefix {t : Table} (hv : t.valid = true) (hwf : t.wf) {i j : Nat} (hi : i < t.size)
    (hj : j < t.size) (hij : i ≠ j) (hwi : 0 < t.weightAt i) (hwj : 0 < t.weightAt j) :
    ¬ (sfBuild t).codeword i <+: (sfBuild t).codeword j := by
  intro hprefix
  obtain ⟨hle, hcode⟩ :=
    uBits_prefix (sfBuild_codeAt_lt hwf hv hi hwi) (sfBuild_codeAt_lt hwf hv hj hwj) hprefix
  rcases sortsBefore_total (w := t.weightAt) hij with h | h
  · have hL : t.total ≤ t.weightAt i * 2 ^ (sfBuild t).lenAt i := by
      rw [sfBuild_lenAt hwf hv hi hwi]
      exact le_mul_two_pow_sfLength _ hwi
    obtain ⟨ci, cj, hci, hcj, hlt⟩ := sfQuotient_lt_of_sortsBefore hwf hv hi hj hwi hwj h hL
    rw [hci, hcj, sfQuotient_div _ _ hle] at hcode
    exact hlt.ne hcode
  · have hweight : t.weightAt i ≤ t.weightAt j := by unfold SortsBefore at h; omega
    have hlen : (sfBuild t).lenAt j = (sfBuild t).lenAt i := by
      refine le_antisymm ?_ hle
      rw [sfBuild_lenAt hwf hv hi hwi, sfBuild_lenAt hwf hv hj hwj]
      exact sfLength_anti hwi hweight
    have hL : t.total ≤ t.weightAt j * 2 ^ (sfBuild t).lenAt i := by
      rw [← hlen, sfBuild_lenAt hwf hv hj hwj]
      exact le_mul_two_pow_sfLength _ hwj
    obtain ⟨cj, ci, hcj, hci, hlt⟩ := sfQuotient_lt_of_sortsBefore hwf hv hj hi hwj hwi h hL
    rw [hci, hcj, hlen, Nat.sub_self, Nat.pow_zero, Nat.div_one] at hcode
    exact hlt.ne hcode.symm

/-- Settles O52: lengths by the minimality of R215, codewords by what the loop leaves; that no codeword begins
another by the quotients. -/
theorem shannonFanoCodeIsPrefixFree : Obligations.ShannonFanoCodeIsPrefixFree := by
  intro t hv hwf
  refine ⟨fun i hi => ⟨sfBuild_lenAt_of_weight_zero hwf hv hi, fun hw => ?_⟩,
    fun i j hi hj hij hwi hwj => ⟨sfBuild_codeword_not_prefix hv hwf hi hj hij hwi hwj, fun hlt => ?_⟩⟩
  · have hlen := sfBuild_lenAt hwf hv hi hw
    refine ⟨hlen ▸ one_le_sfLength _ _, hlen ▸ le_mul_two_pow_sfLength _ hw,
      fun L hL hS => hlen ▸ (sfLength_le_iff hw hL).mpr hS, ?_⟩
    rintro _ rfl
    obtain ⟨pre, post, ho⟩ := exists_split hwf hv hi
    rw [SfState.codeword_eq, sfBuild_codeAt hwf hv ho hw,
      sum_filter_sortsBefore (hwf hv).2.1 (fun j => by simp [SortsBefore]) ho]
  · rw [sfBuild_lenAt hwf hv hi hwi, sfBuild_lenAt hwf hv hj hwj]
    exact sfLength_anti hwj hlt.le

end Sys2Proof.Machine
end

section
/-! PROOFS. The Huffman tree (45_huffman.md R195 to R198): the merge that is taken, the ids it queues, and the paths from
the root to the leaves, which are the codes. -/

namespace Sys2Proof.Machine

/-! ### The candidates of R195 -/

theorem hufLL_eq_some_iff {w : Nat → Nat} {ls : List Nat} {q : List (Nat × Nat)} {c : HufMerge} :
    hufLL w ls q = some c ↔
      ∃ x y r, ls = x :: y :: r ∧ c = { sum := w x + w y, c0 := x, c1 := y, leaves := r, nodes := q } := by
  match ls with
  | [] | [_] => simp [hufLL]
  | x :: y :: r => simp [hufLL, eq_comm]

theorem hufLN_eq_some_iff {w : Nat → Nat} {ls : List Nat} {q : List (Nat × Nat)} {c : HufMerge} :
    hufLN w ls q = some c ↔
      ∃ x r k v p, ls = x :: r ∧ q = (k, v) :: p ∧
        c = { sum := w x + v, c0 := x, c1 := k, leaves := r, nodes := p } := by
  match ls, q with
  | [], _ | _ :: _, [] => simp [hufLN]
  | x :: r, (k, v) :: p => simp [hufLN, eq_comm]

theorem hufNN_eq_some_iff {ls : List Nat} {q : List (Nat × Nat)} {c : HufMerge} :
    hufNN ls q = some c ↔
      ∃ k v k' v' p, q = (k, v) :: (k', v') :: p ∧
        c = { sum := v + v', c0 := k, c1 := k', leaves := ls, nodes := p } := by
  match q with
  | [] | [_] => simp [hufNN]
  | (k, v) :: (k', v') :: p => simp [hufNN, eq_comm]

/-- What the better of two candidates is (R196). -/
theorem hufBetter_eq_some {a b : Option HufMerge} {c : HufMerge} (h : hufBetter a b = some c) :
    (a = some c ∧ ∀ y, b = some y → c.sum ≤ y.sum) ∨ (b = some c ∧ ∀ x, a = some x → c.sum < x.sum) := by
  match a, b with
  | none, b => exact .inr ⟨h, nofun⟩
  | some x, none => exact .inl ⟨h, nofun⟩
  | some x, some y =>
    simp only [hufBetter] at h
    split at h <;> rename_i hlt <;> cases h
    · exact .inr ⟨rfl, fun _ hx => Option.some.inj hx ▸ hlt⟩
    · exact .inl ⟨rfl, fun _ hy => Option.some.inj hy ▸ Nat.le_of_not_lt hlt⟩

theorem hufBetter_le_left {a b : Option HufMerge} {x : HufMerge} (h : a = some x) :
    ∃ z, hufBetter a b = some z ∧ z.sum ≤ x.sum := by
  subst h
  cases b with
  | none => exact ⟨x, rfl, le_rfl⟩
  | some y =>
    simp only [hufBetter]
    split <;> rename_i hlt
    · exact ⟨y, rfl, hlt.le⟩
    · exact ⟨x, rfl, le_rfl⟩

theorem hufBetter_le_right {a b : Option HufMerge} {y : HufMerge} (h : b = some y) :
    ∃ z, hufBetter a b = some z ∧ z.sum ≤ y.sum := by
  subst h
  cases a with
  | none => exact ⟨y, rfl, le_rfl⟩
  | some x =>
    simp only [hufBetter]
    split <;> rename_i hlt
    · exact ⟨y, rfl, le_rfl⟩
    · exact ⟨x, rfl, Nat.le_of_not_lt hlt⟩

/-- A merge is taken whenever a candidate exists, and its sum is no greater than the candidate's. -/
theorem hufPick_le {w : Nat → Nat} {ls : List Nat} {q : List (Nat × Nat)} {x : HufMerge}
    (h : hufLL w ls q = some x ∨ hufLN w ls q = some x ∨ hufNN ls q = some x) :
    ∃ c, hufPick w ls q = some c ∧ c.sum ≤ x.sum := by
  have hleaf {y : HufMerge} (hy : hufBetter (hufLL w ls q) (hufLN w ls q) = some y) (hyx : y.sum ≤ x.sum) :
      ∃ c, hufPick w ls q = some c ∧ c.sum ≤ x.sum := by
    obtain ⟨c, hc, hcy⟩ := hufBetter_le_left (b := hufNN ls q) hy
    exact ⟨c, hc, hcy.trans hyx⟩
  rcases h with h | h | h
  · obtain ⟨y, hy, hyx⟩ := hufBetter_le_left (b := hufLN w ls q) h
    exact hleaf hy hyx
  · obtain ⟨y, hy, hyx⟩ := hufBetter_le_right (a := hufLL w ls q) h
    exact hleaf hy hyx
  · exact hufBetter_le_right h

/-- The merge taken is one of the candidates, and every earlier kind's sum is greater (R196). -/
theorem hufPick_cases {w : Nat → Nat} {ls : List Nat} {q : List (Nat × Nat)} {c : HufMerge}
    (h : hufPick w ls q = some c) :
    hufLL w ls q = some c ∨
    (hufLN w ls q = some c ∧ ∀ x, hufLL w ls q = some x → c.sum < x.sum) ∨
    (hufNN ls q = some c ∧ (∀ x, hufLL w ls q = some x → c.sum < x.sum) ∧
      ∀ x, hufLN w ls q = some x → c.sum < x.sum) := by
  obtain ⟨h, -⟩ | ⟨h, hlt⟩ := hufBetter_eq_some h
  · obtain ⟨h, -⟩ | h := hufBetter_eq_some h
    · exact .inl h
    · exact .inr (.inl h)
  · refine .inr (.inr ⟨h, fun x hx => ?_, fun x hx => ?_⟩)
    · obtain ⟨z, hz, hzx⟩ := hufBetter_le_left (b := hufLN w ls q) hx
      exact (hlt z hz).trans_le hzx
    · obtain ⟨z, hz, hzx⟩ := hufBetter_le_right (a := hufLL w ls q) hx
      exact (hlt z hz).trans_le hzx

theorem exists_hufPick (w : Nat → Nat) {ls : List Nat} {q : List (Nat × Nat)} (h : 2 ≤ ls.length + q.length) :
    ∃ c, hufPick w ls q = some c := by
  have hcand : ∃ x, hufLL w ls q = some x ∨ hufLN w ls q = some x ∨ hufNN ls q = some x := by
    match ls, q with
    | x :: y :: r, q => exact ⟨_, .inl rfl⟩
    | [x], (k, v) :: p => exact ⟨_, .inr (.inl rfl)⟩
    | [], (k, v) :: (k', v') :: p => exact ⟨_, .inr (.inr rfl)⟩
  obtain ⟨x, hx⟩ := hcand
  obtain ⟨c, hc, -⟩ := hufPick_le hx
  exact ⟨c, hc⟩

theorem hufMerges_succ {w : Nat → Nat} {ls : List Nat} {q : List (Nat × Nat)} {c : HufMerge}
    (h : hufPick w ls q = some c) (m k : Nat) :
    hufMerges w (m + 1) k ls q = (c.c0, c.c1) :: hufMerges w m (k + 1) c.leaves (c.nodes ++ [(k, c.sum)]) := by
  rw [hufMerges, h]

/-! ### The elements in the queues -/

/-- The ids of the elements in the two queues. -/
def hufQueue (ls : List Nat) (q : List (Nat × Nat)) : List Nat := ls ++ q.map Prod.fst

@[simp] theorem hufQueue_length (ls : List Nat) (q : List (Nat × Nat)) :
    (hufQueue ls q).length = ls.length + q.length := by
  simp [hufQueue]

theorem mem_hufQueue_push {ls : List Nat} {q : List (Nat × Nat)} {x k v : Nat} :
    x ∈ hufQueue ls (q ++ [(k, v)]) ↔ x ∈ hufQueue ls q ∨ x = k := by
  simp [hufQueue, or_assoc]

/-- A merge takes its two children out of the queues and nothing else. -/
theorem hufPick_perm {w : Nat → Nat} {ls : List Nat} {q : List (Nat × Nat)} {c : HufMerge}
    (h : hufPick w ls q = some c) :
    (hufQueue ls q).Perm (c.c0 :: c.c1 :: hufQueue c.leaves c.nodes) := by
  rcases hufPick_cases h with h | ⟨h, -⟩ | ⟨h, -⟩
  · obtain ⟨x, y, r, rfl, rfl⟩ := hufLL_eq_some_iff.mp h
    exact .refl _
  · obtain ⟨x, r, k, v, p, rfl, rfl, rfl⟩ := hufLN_eq_some_iff.mp h
    exact List.perm_middle.cons x
  · obtain ⟨k, v, k', v', p, rfl, rfl⟩ := hufNN_eq_some_iff.mp h
    exact List.perm_middle.trans (List.perm_middle.cons k)

theorem mem_hufQueue_of_hufPick {w : Nat → Nat} {ls : List Nat} {q : List (Nat × Nat)} {c : HufMerge}
    (h : hufPick w ls q = some c) {x : Nat} :
    x ∈ hufQueue ls q ↔ x = c.c0 ∨ x = c.c1 ∨ x ∈ hufQueue c.leaves c.nodes := by
  rw [(hufPick_perm h).mem_iff, List.mem_cons, List.mem_cons]

theorem hufMerges_length_le (w : Nat → Nat) (m k : Nat) (ls : List Nat) (q : List (Nat × Nat)) :
    (hufMerges w m k ls q).length ≤ m := by
  induction m generalizing k ls q with
  | zero => exact le_rfl
  | succ m ih =>
    cases h : hufPick w ls q with
    | none => simp [hufMerges, h]
    | some c =>
      rw [hufMerges_succ h, List.length_cons]
      exact Nat.succ_le_succ (ih ..)

/-- Every child of a merge was queued before the next node is made. -/
theorem hufMerges_lt {w : Nat → Nat} {m k : Nat} {ls : List Nat} {q : List (Nat × Nat)}
    (hq : ∀ x ∈ hufQueue ls q, x < k) {e : Nat × Nat} (he : e ∈ hufMerges w m k ls q) :
    e.1 < k + m ∧ e.2 < k + m := by
  induction m generalizing k ls q with
  | zero => simp [hufMerges] at he
  | succ m ih =>
    cases h : hufPick w ls q with
    | none => simp [hufMerges, h] at he
    | some c =>
      have hmem {x : Nat} := mem_hufQueue_of_hufPick h (x := x)
      rw [hufMerges_succ h, List.mem_cons] at he
      rcases he with rfl | he
      · have h0 := hq c.c0 (hmem.mpr (.inl rfl))
        have h1 := hq c.c1 (hmem.mpr (.inr (.inl rfl)))
        constructor <;> dsimp only <;> omega
      · have hrest : ∀ x ∈ hufQueue c.leaves (c.nodes ++ [(k, c.sum)]), x < k + 1 := by
          intro x hx
          rcases mem_hufQueue_push.mp hx with hx | rfl
          · exact (hq x (hmem.mpr (.inr (.inr hx)))).trans (Nat.lt_succ_self k)
          · exact Nat.lt_succ_self x
        have := ih hrest he
        omega

/-! ### Paths to the leaves (R198) -/

/-- The child of node `x` on bit `b`, in the list of the merges' children. -/
def hufKid (n : Nat) (kids : List (Nat × Nat)) (x : Nat) (b : Bool) : Nat :=
  if b then (kids.getD (x - n) (0, 0)).2 else (kids.getD (x - n) (0, 0)).1

/-- The path `p` leads from node `x` through internal nodes to leaf `i`. -/
def HufLeads (n : Nat) (kids : List (Nat × Nat)) : Nat → BitSeq → Nat → Prop
  | x, [], i => x < n ∧ x = i
  | x, b :: p, i => n ≤ x ∧ HufLeads n kids (hufKid n kids x b) p i

theorem mem_hufPaths {n : Nat} {kids : List (Nat × Nat)} {f x i : Nat} {path r : BitSeq} :
    (i, r) ∈ hufPaths n kids f x path ↔ ∃ p, r = path ++ p ∧ p.length < f ∧ HufLeads n kids x p i := by
  induction f generalizing x path with
  | zero => simp [hufPaths]
  | succ f ih =>
    rw [hufPaths]
    split
    · rename_i hx
      constructor
      · intro h
        obtain ⟨rfl, rfl⟩ := Prod.mk.inj (List.mem_singleton.mp h)
        exact ⟨[], by simp, Nat.succ_pos f, hx, rfl⟩
      · rintro ⟨_ | ⟨b, p⟩, rfl, -, hle, hp⟩
        · simp [hp]
        · omega
    · rename_i hx
      rw [List.mem_append, ih, ih]
      constructor
      · rintro (⟨p, rfl, hlen, hp⟩ | ⟨p, rfl, hlen, hp⟩)
        · exact ⟨false :: p, by simp, Nat.succ_lt_succ hlen, Nat.le_of_not_lt hx, hp⟩
        · exact ⟨true :: p, by simp, Nat.succ_lt_succ hlen, Nat.le_of_not_lt hx, hp⟩
      · rintro ⟨_ | ⟨b, p⟩, rfl, hlen, hle, hp⟩
        · exact absurd hle hx
        · have hlen' := Nat.lt_of_succ_lt_succ hlen
          cases b with
          | false => exact .inl ⟨p, by simp, hlen', hp⟩
          | true => exact .inr ⟨p, by simp, hlen', hp⟩

/-- The merges build one tree over all leaves: if every leaf is below some element of the queues, at most `d` bits down,
then after the last merge it is below the last node, one bit further down for each merge at most. -/
theorem hufMerges_leads {n : Nat} {kids prior : List (Nat × Nat)} {w : Nat → Nat} {m k d : Nat} {ls : List Nat}
    {q : List (Nat × Nat)} (hkids : kids = prior ++ hufMerges w m k ls q) (hk : k = n + prior.length)
    (hlen : ls.length + q.length = m + 1) (hlast : k - 1 ∈ hufQueue ls q)
    (hcover : ∀ i < n, ∃ x ∈ hufQueue ls q, ∃ p, p.length ≤ d ∧ HufLeads n kids x p i) :
    ∀ i < n, ∃ p, p.length ≤ d + m ∧ HufLeads n kids (k + m - 1) p i := by
  induction m generalizing k ls q prior d with
  | zero =>
    intro i hi
    obtain ⟨x, hx, p, hp, hlead⟩ := hcover i hi
    obtain ⟨y, hy⟩ := List.length_eq_one_iff.mp ((hufQueue_length ls q).trans hlen)
    rw [hy, List.mem_singleton] at hx hlast
    exact ⟨p, hp, by rwa [Nat.add_zero, hlast, ← hx]⟩
  | succ m ih =>
    obtain ⟨c, hc⟩ := exists_hufPick w (ls := ls) (q := q) (by omega)
    rw [hufMerges_succ hc] at hkids
    have hkid : kids.getD (k - n) (0, 0) = (c.c0, c.c1) := by
      rw [hkids, hk, Nat.add_sub_cancel_left, List.getD_append_right _ _ _ _ le_rfl, Nat.sub_self]
      rfl
    have hkid0 : hufKid n kids k false = c.c0 := by simp only [hufKid, hkid]; rfl
    have hkid1 : hufKid n kids k true = c.c1 := by simp only [hufKid, hkid]; rfl
    have hlength := (hufPick_perm hc).length_eq
    simp only [hufQueue_length, List.length_cons] at hlength
    have hnext := ih (prior := prior ++ [(c.c0, c.c1)]) (k := k + 1) (d := d + 1) (ls := c.leaves)
      (q := c.nodes ++ [(k, c.sum)]) (by rw [hkids, List.append_assoc]; rfl) (by simp; omega) (by simp; omega)
      (mem_hufQueue_push.mpr (.inr rfl)) ?_
    · intro i hi
      obtain ⟨p, hp, hlead⟩ := hnext i hi
      exact ⟨p, by omega, by rwa [show k + (m + 1) - 1 = k + 1 + m - 1 by omega]⟩
    · intro i hi
      obtain ⟨x, hx, p, hp, hlead⟩ := hcover i hi
      have hnk : n ≤ k := by omega
      rcases (mem_hufQueue_of_hufPick hc).mp hx with rfl | rfl | hx
      · exact ⟨k, mem_hufQueue_push.mpr (.inr rfl), false :: p, Nat.succ_le_succ hp, hnk, hkid0.symm ▸ hlead⟩
      · exact ⟨k, mem_hufQueue_push.mpr (.inr rfl), true :: p, Nat.succ_le_succ hp, hnk, hkid1.symm ▸ hlead⟩
      · exact ⟨x, mem_hufQueue_push.mpr (.inl hx), p, Nat.le_succ_of_le hp, hlead⟩

/-! ### The tree of a list of weights -/

theorem mem_hufQueue_initial {ws : List Nat} {x : Nat} :
    x ∈ hufQueue (stableSortDesc ws).reverse [] ↔ x < ws.length := by
  simp [hufQueue, mem_stableSortDesc]

theorem hufChildren_length_le (ws : List Nat) : (hufChildren ws).length ≤ ws.length - 1 :=
  hufMerges_length_le ..

theorem hufChildren_lt {ws : List Nat} {e : Nat × Nat} (he : e ∈ hufChildren ws) :
    e.1 < ws.length + (ws.length - 1) ∧ e.2 < ws.length + (ws.length - 1) :=
  hufMerges_lt (fun _ => mem_hufQueue_initial.mp) he

/-- From the root a path of fewer than `n` bits leads to every leaf. -/
theorem hufChildren_leads {ws : List Nat} (h : 2 ≤ ws.length) {i : Nat} (hi : i < ws.length) :
    ∃ p : BitSeq, p.length < ws.length ∧ HufLeads ws.length (hufChildren ws) (hufRoot ws.length) p i := by
  have hroot : hufRoot ws.length = ws.length + (ws.length - 1) - 1 := by
    rw [hufRoot, if_neg (by omega)]
    omega
  obtain ⟨p, hp, hlead⟩ := hufMerges_leads (kids := hufChildren ws) (prior := []) (n := ws.length) (d := 0)
    rfl rfl (by simp; omega) (mem_hufQueue_initial.mpr (by omega))
    (fun j hj => ⟨j, mem_hufQueue_initial.mpr hj, [], le_rfl, hj, rfl⟩) i hi
  exact ⟨p, by omega, hroot ▸ hlead⟩

theorem hufCodes_length (ws : List Nat) : (hufCodes ws).length = ws.length := by
  unfold hufCodes
  split <;> simp [*]

theorem hufCodes_getD {ws : List Nat} (h : 2 ≤ ws.length) {i : Nat} (hi : i < ws.length) :
    (hufCodes ws).getD i [] =
      ((hufPaths ws.length (hufChildren ws) ws.length (hufRoot ws.length) []).lookup i).getD [] := by
  rw [hufCodes, if_neg (by omega)]
  simp [List.getD, hi]

/-- A leaf's code is a path from the root to it (R198). -/
theorem hufCodes_leads {ws : List Nat} (h : 2 ≤ ws.length) {i : Nat} (hi : i < ws.length) :
    ((hufCodes ws).getD i []).length < ws.length ∧
      HufLeads ws.length (hufChildren ws) (hufRoot ws.length) ((hufCodes ws).getD i []) i := by
  obtain ⟨p, hp, hlead⟩ := hufChildren_leads h hi
  have hmem := mem_hufPaths.mpr ⟨p, (List.nil_append p).symm, hp, hlead⟩
  have hsome := List.lookup_isSome_iff.mpr ⟨_, hmem, beq_self_eq_true i⟩
  obtain ⟨code, hcode⟩ := Option.isSome_iff_exists.mp hsome
  obtain ⟨l₁, l₂, hl, -⟩ := List.lookup_eq_some_iff.mp hcode
  have hcodemem : (i, code) ∈ hufPaths ws.length (hufChildren ws) ws.length (hufRoot ws.length) [] :=
    hl ▸ List.mem_append_right _ List.mem_cons_self
  obtain ⟨r, hr, hlen, hleadr⟩ := mem_hufPaths.mp hcodemem
  rw [hufCodes_getD h hi, hcode, Option.getD_some, hr, List.nil_append]
  exact ⟨hlen, hleadr⟩

theorem hufCodes_of_length_one {ws : List Nat} (h : ws.length = 1) : hufCodes ws = [[false]] := if_pos h

theorem hufCodes_getD_length_lt {ws : List Nat} (h : ws.length ≤ 256) {i : Nat} (hi : i < ws.length) :
    ((hufCodes ws).getD i []).length < 2 ^ 8 := by
  by_cases h2 : 2 ≤ ws.length
  · exact (hufCodes_leads h2 hi).1.trans_le h
  · obtain rfl : i = 0 := by omega
    rw [hufCodes_of_length_one (by omega)]
    decide

/-! ### The arrays of the built state (R195, R198) -/

theorem fillVec_getD {α : Type} {m : Nat} {d : α} {l : List α} (h : l.length ≤ m) (i : Nat) :
    (fillVec m d l).toList.getD i d = l.getD i d := by
  by_cases hi : i < l.length
  · rw [fillVec_getD_of_lt hi (hi.trans_le h), List.getD_eq_getElem _ _ hi]
  · have hi' := Nat.le_of_not_lt hi
    rw [List.getD_eq_default _ _ hi', fillVec_toList, List.getD_eq_getElem?_getD, List.getElem?_take]
    split
    · rw [List.getElem?_append_right hi', List.getElem?_replicate]
      split <;> rfl
    · rfl

/-- The entry of an internal node in HUF_C0 or HUF_C1. -/
theorem childVec_getD {n x : Nat} {kids : List (Nat × Nat)} {f : Nat × Nat → Nat} (hf : f (0, 0) = 0)
    (hlt : ∀ e ∈ kids, f e < 2 ^ 9) (hlen : n + kids.length ≤ 512) (hx : n ≤ x) :
    ((fillVec 512 0 (List.replicate n 0 ++ kids.map fun c => BitVec.ofNat 9 (f c))).toList.getD x 0).toNat =
      f (kids.getD (x - n) (0, 0)) := by
  have hentry : (kids.map fun c => BitVec.ofNat 9 (f c)).getD (x - n) 0 =
      BitVec.ofNat 9 (f (kids.getD (x - n) (0, 0))) := by
    rw [← List.getD_map kids (0, 0) fun c => BitVec.ofNat 9 (f c), hf]
    rfl
  have hbound : f (kids.getD (x - n) (0, 0)) < 2 ^ 9 := by
    by_cases hj : x - n < kids.length
    · rw [List.getD_eq_getElem _ _ hj]
      exact hlt _ (List.getElem_mem hj)
    · rw [List.getD_eq_default _ _ (Nat.le_of_not_lt hj), hf]
      decide
  rw [fillVec_getD (by simpa using hlen), List.getD_append_right _ _ _ _ (by simpa using hx), List.length_replicate,
    hentry, BitVec.toNat_ofNat, Nat.mod_eq_of_lt hbound]

section
variable {t : Table} (hsize : t.size ≤ 256)
include hsize

theorem hufBuild_n : (hufBuild t).n = t.n := by
  simp only [hufBuild, Table.weights_length hsize, Table.size, BitVec.ofNat_toNat, BitVec.setWidth_eq]

theorem hufBuild_root : (hufBuild t).root.toNat = hufRoot t.size := by
  have hlt : hufRoot t.size < 2 ^ 9 := by
    unfold hufRoot
    split <;> omega
  simp only [hufBuild, Table.weights_length hsize, BitVec.toNat_ofNat, Nat.mod_eq_of_lt hlt]

theorem hufBuild_child {x : Nat} (hx : t.size ≤ x) (b : Bool) :
    ((if b then (hufBuild t).c1 else (hufBuild t).c0).toList.getD x 0).toNat =
      hufKid t.size (hufChildren t.weights) x b := by
  have hweights := Table.weights_length hsize
  have hlen := hufChildren_length_le t.weights
  have hlt {e : Nat × Nat} (he : e ∈ hufChildren t.weights) : e.1 < 2 ^ 9 ∧ e.2 < 2 ^ 9 := by
    have := hufChildren_lt he
    omega
  cases b with
  | false =>
    simp only [hufBuild, hweights]
    exact childVec_getD (f := Prod.fst) rfl (fun e he => (hlt he).1) (by omega) hx
  | true =>
    simp only [hufBuild, hweights]
    exact childVec_getD (f := Prod.snd) rfl (fun e he => (hlt he).2) (by omega) hx

theorem hufBuild_codeAt (i : Nat) : (hufBuild t).codeAt i = (hufCodes t.weights).getD i [] :=
  fillVec_getD (by rwa [hufCodes_length, Table.weights_length hsize]) i

theorem hufBuild_lenAt {i : Nat} (hi : i < t.size) :
    (hufBuild t).lenAt i = ((hufCodes t.weights).getD i []).length := by
  have hweights := Table.weights_length hsize
  have hlt := hufCodes_getD_length_lt (hweights.trans_le hsize) (hi.trans_eq hweights.symm)
  rw [HufState.lenAt, hufBuild, fillVec_getD (by simpa [hufCodes_length, hweights] using hsize),
    show (0 : BitVec 8) = BitVec.ofNat 8 (List.length ([] : BitSeq)) from rfl,
    List.getD_map _ _ fun c : BitSeq => BitVec.ofNat 8 c.length, BitVec.toNat_ofNat, Nat.mod_eq_of_lt hlt]

/-- Following a path through HUF_C0 and HUF_C1 ends at the leaf it leads to. -/
theorem foldl_child_of_leads {x i : Nat} {p : BitSeq} (h : HufLeads t.size (hufChildren t.weights) x p i) :
    p.foldl (fun x b => ((if b then (hufBuild t).c1 else (hufBuild t).c0).toList.getD x 0).toNat) x = i := by
  induction p generalizing x with
  | nil => exact h.2
  | cons b p ih =>
    obtain ⟨hx, hp⟩ := h
    rw [List.foldl_cons, hufBuild_child hsize hx]
    exact ih hp

end

/-! ### The statement -/

/-- Settles O51: the merge by the cases of the pick, the codes by the paths that the merges build. -/
theorem huffmanMergeAndChildOrder : Obligations.HuffmanMergeAndChildOrder := by
  refine ⟨fun w ls q h => ?_, fun t ls hv hwf hls => ?_⟩
  · obtain ⟨c, hc⟩ := exists_hufPick w h
    have hle {x : HufMerge} (hx : hufLL w ls q = some x ∨ hufLN w ls q = some x ∨ hufNN ls q = some x) :
        c.sum ≤ x.sum := by
      obtain ⟨c', hc', hle⟩ := hufPick_le hx
      rwa [Option.some.inj (hc.symm.trans hc')]
    refine ⟨c, hc, hufMerges_succ hc, ?_, ?_, ?_, ?_⟩
    · rintro x y r rfl
      exact hle (.inl rfl)
    · rintro x r k v p rfl rfl
      exact hle (.inr (.inl rfl))
    · rintro k v k' v' p rfl
      exact hle (.inr (.inr rfl))
    · rcases hufPick_cases hc with hLL | ⟨hLN, hltLL⟩ | ⟨hNN, hltLL, hltLN⟩
      · exact .inl (hufLL_eq_some_iff.mp hLL)
      · obtain ⟨x, r, k, v, p, rfl, rfl, rfl⟩ := hufLN_eq_some_iff.mp hLN
        exact .inr (.inl ⟨x, r, k, v, p, rfl, rfl, rfl,
          fun y z r' hr => hltLL _ (hufLL_eq_some_iff.mpr ⟨y, z, r', hr, rfl⟩)⟩)
      · obtain ⟨k, v, k', v', p, rfl, rfl⟩ := hufNN_eq_some_iff.mp hNN
        exact .inr (.inr ⟨k, v, k', v', p, rfl, rfl,
          fun y z r' hr => hltLL _ (hufLL_eq_some_iff.mpr ⟨y, z, r', hr, rfl⟩),
          fun y r' hr => hltLN _ (hufLN_eq_some_iff.mpr ⟨y, r', k, v, _, hr, rfl, rfl⟩)⟩)
  · subst hls
    obtain ⟨hpos, hsize, -⟩ := hwf hv
    have hweights := Table.weights_length hsize
    refine ⟨by rw [hufChildren, hweights]; rfl, ?_, ?_, hufBuild_n hsize, hufBuild_root hsize, ?_, fun i hi => ?_⟩
    · rw [← hweights]
      exact (List.reverse_perm _).trans (stableSortDesc_perm _)
    · refine List.pairwise_reverse.mpr ((stableSortDesc_sortsBefore t.weights).imp fun h => ?_)
      exact h.imp_right fun h => ⟨h.1.symm, h.2⟩
    · intro j x y hj
      have hkid (b : Bool) := hufBuild_child hsize (Nat.le_add_right t.size j) b
      simp only [hufKid, Nat.add_sub_cancel_left, List.getD_eq_getElem?_getD, hj] at hkid
      exact ⟨hkid false, hkid true⟩
    · refine ⟨hufBuild_codeAt hsize i, hufBuild_lenAt hsize hi, fun h1 => ?_, fun h2 => ?_⟩
      · obtain rfl : i = 0 := by omega
        rw [hufCodes_of_length_one (hweights.trans h1)]
        rfl
      · have hlead := (hufCodes_leads (hweights.symm ▸ h2) (hweights.symm ▸ hi)).2
        rw [hweights] at hlead
        rw [hufBuild_root hsize]
        exact foldl_child_of_leads hsize hlead

end Sys2Proof.Machine
end

section
/-! PROOFS. The decoder (30_encoding.md R80 to R88): a word is its fields, OPC and C pick the row of the opcode table, and
so the word of every command decodes to it. -/

namespace Sys2Proof

/-! ### A word is its fields (30_encoding.md R80) -/

theorem word_ext {w v : Word32} (ho : opcField w = opcField v) (ha : aField w = aField v) (hb : bField w = bField v)
    (hc : cField w = cField v) (hr : rsvField w = rsvField v) : w = v := by
  apply BitVec.eq_of_toNat_eq
  have hw := w.isLt
  have hv := v.isLt
  simp only [opcField, aField, bField, cField, rsvField, ← BitVec.toNat_inj, BitVec.extractLsb'_toNat,
    Nat.shiftRight_eq_div_pow] at ho ha hb hc hr
  omega

theorem opcField_and (w v : Word32) : opcField (w &&& v) = opcField w &&& opcField v := BitVec.extractLsb'_and
theorem aField_and (w v : Word32) : aField (w &&& v) = aField w &&& aField v := BitVec.extractLsb'_and
theorem bField_and (w v : Word32) : bField (w &&& v) = bField w &&& bField v := BitVec.extractLsb'_and
theorem cField_and (w v : Word32) : cField (w &&& v) = cField w &&& cField v := BitVec.extractLsb'_and
theorem rsvField_and (w v : Word32) : rsvField (w &&& v) = rsvField w &&& rsvField v := BitVec.extractLsb'_and

/-! ### Which row a word matches (R82, R86) -/

theorem opcField_rowMask (r : RowShape) : opcField (rowMask r) = BitVec.allOnes 8 := by
  cases r <;> (simp only [rowMask]; decide)

theorem cField_rowMask (r : RowShape) : cField (rowMask r) = BitVec.allOnes 4 := by
  cases r <;> (simp only [rowMask]; decide)

theorem rsvField_rowMask (r : RowShape) : rsvField (rowMask r) = BitVec.allOnes 12 := by
  cases r <;> (simp only [rowMask]; decide)

theorem aField_rowMask_a (mk : BufIdx → Instr) : aField (rowMask (.a mk)) = 0#4 :=
  (by decide : aField 0xFFFFF0FF#32 = 0#4)

theorem aField_rowMask_ab (mk : BufIdx → BufIdx → Instr) : aField (rowMask (.ab mk)) = 0#4 :=
  (by decide : aField 0xFFFF00FF#32 = 0#4)

theorem bField_rowMask_ab (mk : BufIdx → BufIdx → Instr) : bField (rowMask (.ab mk)) = 0#4 :=
  (by decide : bField 0xFFFF00FF#32 = 0#4)

/-- OPC and C, which no mask of R86 leaves free. -/
def rowKey (w : Word32) : BitVec 8 × BitVec 4 := (opcField w, cField w)

theorem rowKey_of_rowMatches {w : Word32} {row : Word32 × RowShape} (h : rowMatches w row = true) :
    rowKey w = rowKey row.1 := by
  rw [rowMatches, beq_iff_eq] at h
  simp only [rowKey, ← h, opcField_and, cField_and, opcField_rowMask, cField_rowMask, BitVec.and_allOnes]

theorem opRows_pairwise_rowKey : opRows.Pairwise (fun x y => rowKey x.1 ≠ rowKey y.1) := by
  have h : (opRows.map (fun row => rowKey row.1)).Nodup := by decide
  exact List.pairwise_map.mp h

/-- No two rows share OPC and C, so the row a word matches is the one that decodes it. -/
theorem decode_of_rowMatches {w : Word32} {row : Word32 × RowShape} (hrow : row ∈ opRows)
    (h : rowMatches w row = true) : decode w = .ok (rowInstr w row.2) := by
  obtain ⟨pre, post, hsplit⟩ := List.append_of_mem hrow
  have hfirst : opRows.find? (rowMatches w) = some row := by
    refine List.find?_eq_some_iff_append.mpr ⟨h, pre, post, hsplit, fun x hx => ?_⟩
    have hne : rowKey x.1 ≠ rowKey row.1 := by
      have hp := opRows_pairwise_rowKey
      rw [hsplit] at hp
      exact (List.pairwise_append.mp hp).2.2 x hx row (List.mem_cons_self ..)
    simpa using fun hm => hne ((rowKey_of_rowMatches hm).symm.trans (rowKey_of_rowMatches h))
  simp only [decode, hfirst]

theorem rowMatches_assemble (c : BitVec 4) {b b' a a' : BufIdx} (o : BitVec 8) {r : RowShape}
    (hb : b &&& bField (rowMask r) = b') (ha : a &&& aField (rowMask r) = a') :
    rowMatches (assemble c b a o) (assemble c b' a' o, r) = true := by
  rw [rowMatches, beq_iff_eq]
  apply word_ext
  · rw [opcField_and, opcField_rowMask, BitVec.and_allOnes, opcField_assemble, opcField_assemble]
  · rw [aField_and, aField_assemble, ha, aField_assemble]
  · rw [bField_and, bField_assemble, hb, bField_assemble]
  · rw [cField_and, cField_rowMask, BitVec.and_allOnes, cField_assemble, cField_assemble]
  · rw [rsvField_and, rsvField_rowMask, BitVec.and_allOnes, rsvField_assemble, rsvField_assemble]

section
variable {c : BitVec 4} {o : BitVec 8}

theorem decode_row_none {i : Instr} (hrow : (assemble c 0 0 o, .none i) ∈ opRows) :
    decode (assemble c 0 0 o) = .ok i :=
  decode_of_rowMatches hrow (rowMatches_assemble c o BitVec.zero_and BitVec.zero_and)

theorem decode_row_a {mk : BufIdx → Instr} (a : BufIdx) (hrow : (assemble c 0 0 o, .a mk) ∈ opRows) :
    decode (assemble c 0 a o) = .ok (mk a) := by
  have hfree : a &&& aField (rowMask (.a mk)) = 0 := by rw [aField_rowMask_a]; exact BitVec.and_zero
  have hrow := decode_of_rowMatches hrow (rowMatches_assemble c o BitVec.zero_and hfree)
  rwa [rowInstr, aField_assemble] at hrow

theorem decode_row_ab {mk : BufIdx → BufIdx → Instr} (a b : BufIdx) (hrow : (assemble c 0 0 o, .ab mk) ∈ opRows) :
    decode (assemble c b a o) = .ok (mk a b) := by
  have ha : a &&& aField (rowMask (.ab mk)) = 0 := by rw [aField_rowMask_ab]; exact BitVec.and_zero
  have hb : b &&& bField (rowMask (.ab mk)) = 0 := by rw [bField_rowMask_ab]; exact BitVec.and_zero
  have hrow := decode_of_rowMatches hrow (rowMatches_assemble c o hb ha)
  rwa [rowInstr, aField_assemble, bField_assemble] at hrow

end

/-- Every command's word is in the opcode table and decodes to the command. -/
theorem decode_encode (i : Instr) : decode (encode i) = .ok i := by
  cases i
  case bsClear a | bsAppb a | bsAppu8 a | bsAppu16 a | bsAppu32 a | bsAppu64 a | bsPop a | bsGet a | bsSet a | bsLen a
      | txClear a | txPush a | txGet a | txSet a | txLen a =>
    exact decode_row_a a (by simp [opRows, opRowsBuffers, assemble])
  case bsCat a b | bsAppt a b | bsRender a b | encFixed a b | decFixed a b | encBlock a b | decBlock a b
      | encHuf a b | decHuf a b | encSf a b | decSf a b | encArith a b | decArith a b | encLz77 a b | decLz77 a b
      | encLzw a b | decLzw a b =>
    exact decode_row_ab a b (by simp [opRows, opRowsBuffers, opRowsTable, opRowsCodecs, assemble])
  all_goals exact decode_row_none (by simp [opRows, opRowsBuffers, opRowsTable, opRowsCodecs, assemble])

end Sys2Proof

namespace Sys2Proof.Machine

/-! ### The sequencer's turn (70_reset_and_hazards.md R340) -/

section
variable {s : State}

theorem sequencerStep_of_idle (hidle : s.status.busy = false) : sequencerStep s = .next s := by
  simp [sequencerStep, hidle]

theorem sequencerStep_of_decode {i : Instr} (hbusy : s.status.busy = true) (hword : decode s.lCmd = .ok i) :
    sequencerStep s = exec i s := by
  simp [sequencerStep, hbusy, hword]

theorem sequencerStep_of_illegal (hbusy : s.status.busy = true) (hword : decode s.lCmd = .error .badOpcode) :
    sequencerStep s = finish s (.error .badOpcode) := by
  simp [sequencerStep, hbusy, hword]

end

/-- Settles O8: the turn is the sequencer's, BUSY is 1, and the pending word decodes to the command. -/
theorem fetchedWordIsRunNext : Obligations.FetchedWordIsRunNext := by
  intro i s
  have hword : BitVec.ofNat 32 ((encode i).toNat % 2 ^ 32) = encode i := by
    rw [Nat.mod_eq_of_lt (encode i).isLt, BitVec.ofNat_toNat, BitVec.setWidth_eq]
  rw [State.withFetchWord, hword]
  exact sequencerStep_of_decode rfl (decode_encode i)

end Sys2Proof.Machine
end

section
/-! PROOFS. The host port (10_state.md R22 to R26, R342): what each write and each read does, and the statements about
them. -/

namespace Sys2Proof.Machine

/-! ### Whose turn it is -/

section
variable {s : State} {ts : List Turn}

theorem step_of_no_turn (h : s.turns = []) : step s = sequencerStep s := by
  simp only [step, h]

theorem step_of_sequencer (h : s.turns = .sequencer :: ts) : step s = sequencerStep { s with turns := ts } := by
  simp only [step, h]

theorem step_of_host {a : HostAccess} (h : s.turns = .host a :: ts) :
    step s = .next (hostAccess a { s with turns := ts }) := by
  simp only [step, h]

theorem step_of_reset (h : s.turns = .reset :: ts) : step s = .next (platformReset { s with turns := ts }) := by
  simp only [step, h]

end

/-! ### Writes -/

theorem writeCmd_of_idle {s : State} {v : Word64} (hidle : s.status.busy = false) :
    writeCmd s v = { s with lCmd := v.extractLsb' 0 32, lArg0 := s.arg0, lArg1 := s.arg1, lArg2 := s.arg2,
                            status := { s.status with busy := true } } := by
  simp [writeCmd, hidle]

theorem writeCmd_of_busy {s : State} {v : Word64} (hbusy : s.status.busy = true) :
    writeCmd s v = { s with status := { s.status with ovr := true } } := by
  simp [writeCmd, hbusy]

theorem portWrite_elsewhere {off : Nat} (s : State) (v : Word64) (h : off ∉ [0x00, 0x08, 0x10, 0x18]) :
    portWrite s off v = s := by
  simp only [List.mem_cons, List.not_mem_nil, or_false, not_or] at h
  obtain ⟨h0, h1, h2, h3⟩ := h
  rw [portWrite, if_neg h0, if_neg h1, if_neg h2, if_neg h3]

/-- Settles O10: the write reaches the register at its offset. -/
theorem hostWritesReachTheirRegisters : Obligations.HostWritesReachTheirRegisters := by
  intro s off v ts hturn
  rw [step_of_host hturn]
  refine ⟨?_, ?_, ?_, ?_, ?_⟩
  · rintro rfl hidle
    exact congrArg _ (writeCmd_of_idle (s := { s with turns := ts }) hidle)
  · rintro rfl
    rfl
  · rintro rfl
    rfl
  · rintro rfl
    rfl
  · exact fun hoff => congrArg _ (portWrite_elsewhere _ v hoff)

/-! ### Reads -/

theorem portRead_elsewhere {off : Nat} (s : State) (h : off ∉ [0x00, 0x08, 0x10, 0x18, 0x20, 0x28, 0x30]) :
    portRead s off = 0 := by
  simp only [List.mem_cons, List.not_mem_nil, or_false, not_or] at h
  obtain ⟨h0, h1, h2, h3, h4, h5, h6⟩ := h
  rw [portRead, if_neg h0, if_neg h1, if_neg h2, if_neg h3, if_neg h4, if_neg h5, if_neg h6]

section
variable (st : Status)

theorem statusWord_err : (statusWord st).extractLsb' 0 4 = st.err := by
  rw [statusWord, BitVec.extractLsb'_setWidth_of_le (by decide)]
  simp [↓BitVec.extractLsb'_append_eq_ite]

theorem statusWord_detail : (statusWord st).extractLsb' 8 8 = st.detail := by
  rw [statusWord, BitVec.extractLsb'_setWidth_of_le (by decide)]
  simp [↓BitVec.extractLsb'_append_eq_ite]

theorem statusWord_busy : (statusWord st).getLsbD 16 = st.busy := by
  rw [statusWord, BitVec.getLsbD_setWidth]
  simp [↓BitVec.getLsbD_append, flagBit]

theorem statusWord_ovr : (statusWord st).getLsbD 17 = st.ovr := by
  rw [statusWord, BitVec.getLsbD_setWidth]
  simp [↓BitVec.getLsbD_append, flagBit]

theorem statusWord_anyErr : (statusWord st).getLsbD 18 = st.anyErr := by
  rw [statusWord, BitVec.getLsbD_setWidth]
  simp [↓BitVec.getLsbD_append, flagBit]

theorem statusWord_lastOp : (statusWord st).extractLsb' 24 8 = st.lastOp := by
  rw [statusWord, BitVec.extractLsb'_setWidth_of_le (by decide)]
  simp [↓BitVec.extractLsb'_append_eq_ite]

/-- The reserved bits read 0. -/
theorem statusWord_reserved : (statusWord st).extractLsb' 4 4 = 0 ∧ (statusWord st).extractLsb' 19 5 = 0 ∧
    (statusWord st).extractLsb' 32 32 = 0 := by
  refine ⟨?_, ?_, ?_⟩ <;>
    · rw [statusWord, BitVec.extractLsb'_setWidth_of_le (by decide)]
      simp [↓BitVec.extractLsb'_append_eq_ite]

end

/-- Settles O12: the read returns what `portRead` finds at its offset, for STATUS the word with its fields in place. -/
theorem hostReadsReturnTheirRegisters : Obligations.HostReadsReturnTheirRegisters := by
  intro s off ts hturn
  refine ⟨portRead s off, step_of_host hturn, ?_, ?_, ?_, ?_, ?_, ?_, ?_, portRead_elsewhere s⟩ <;> rintro rfl
  case refine_7 =>
    obtain ⟨hlow, hmid, hhigh⟩ := statusWord_reserved s.status
    exact ⟨statusWord_err _, hlow, statusWord_detail _, statusWord_busy _, statusWord_ovr _, statusWord_anyErr _, hmid,
      statusWord_lastOp _, hhigh⟩
  all_goals rfl

end Sys2Proof.Machine
end

section
/-! PROOFS. Frames (10_state.md R24 to R50): what a command that succeeds can commit, said once for every command, and
what it therefore leaves as it was. -/

namespace Sys2Proof.Machine

/-! ### What a command can commit -/

/-- `Commits s i t`: in state `s` command `i` can succeed with the effects that make `t`, STATUS and CMDCOUNT aside. -/
inductive Commits (s : State) : Instr → State → Prop
  | results {i : Instr} (hi : isReadCommand i = true) (r0 r1 : Word64) : Commits s i { s with res0 := r0, res1 := r1 }
  | stream {i : Instr} {a : BufIdx} (hi : destStream i = some a) (v : BitSeq) : Commits s i (s.putBs a v)
  | text {i : Instr} {a : BufIdx} (hi : destText i = some a) (v : Text) : Commits s i (s.putTx a v)
  | register (e : Byte) (win la : Word32) (bs : BitVec 6) (lz77 lzw : Bool) :
      Commits s .regWr { s with eom := e, lz77Window := win, lz77Lookahead := la, lzwBlocksize := bs,
                                valid := { s.valid with lz77 := lz77, lzw := lzw } }
  | stage (st : Staging) : Commits s .stStage { s with staging := st }
  | build : Commits s .stBuild { s with table := builtTable s.staging s.table (arg0Nat s),
                                        valid := { s.valid with huf := false, sf := false, arith := false } }
  | encHuf (a b : BufIdx) (v : BitSeq) :
      Commits s (.encHuf a b) ({ s with huf := hufBuild s.table, valid := { s.valid with huf := true } }.putBs a v)
  | prepHuf : Commits s .prepHuf { s with huf := hufBuild s.table, valid := { s.valid with huf := true } }
  | encSf (a b : BufIdx) (v : BitSeq) :
      Commits s (.encSf a b) ({ s with sf := sfBuild s.table, valid := { s.valid with sf := true } }.putBs a v)
  | prepSf : Commits s .prepSf { s with sf := sfBuild s.table, valid := { s.valid with sf := true } }
  | encArith (a b : BufIdx) (v : BitSeq) :
      Commits s (.encArith a b) ({ s with ar := arBuild s.table, valid := { s.valid with arith := true } }.putBs a v)
  | prepArith : Commits s .prepArith { s with ar := arBuild s.table, valid := { s.valid with arith := true } }
  | encLz77 (a b : BufIdx) (win la : Word32) (v : BitSeq) :
      Commits s (.encLz77 a b) ({ s with lz77Window := win, lz77Lookahead := la,
                                         valid := { s.valid with lz77 := true } }.putBs a v)
  | encLzw (a b : BufIdx) (bs : BitVec 6) (size : Word64) (v : BitSeq) :
      Commits s (.encLzw a b) ({ s with lzwBlocksize := bs, lzwDictsize := size,
                                        valid := { s.valid with lzw := true } }.putBs a v)
  | decLzw (a b : BufIdx) (size : Word64) (v : Text) : Commits s (.decLzw a b) { s.putTx a v with lzwDictsize := size }

section
variable {s t : State}

theorem ruleRegWr_commits (h : ruleRegWr s = .ok t) : Commits s .regWr t := by
  unfold ruleRegWr at h
  split at h
  · cases h
  · rename_i r _
    cases r <;> cases h <;> exact .register _ _ _ _ _ _

theorem ruleStStage_commits (h : ruleStStage s = .ok t) : Commits s .stStage t := by
  unfold ruleStStage at h
  split at h <;> cases h
  exact .stage _

theorem ruleStBuild_ok (h : ruleStBuild s = .ok t) :
    t = { s with table := builtTable s.staging s.table (arg0Nat s),
                 valid := { s.valid with huf := false, sf := false, arith := false } } := by
  unfold ruleStBuild at h
  split_ifs at h
  exact (Except.ok.inj h).symm

/-- A command that succeeds commits one of these: the readers by what they write, the others by the write of each. -/
theorem ruleOf_commits {i : Instr} (h : ruleOf i s = .ok t) : Commits s i t := by
  by_cases hi : isReadCommand i = true
  · obtain ⟨r0, r1, rfl⟩ := ruleOf_read_ok hi h
    exact .results hi r0 r1
  cases i
  case regWr => exact ruleRegWr_commits h
  case stStage => exact ruleStStage_commits h
  case stBuild =>
    obtain rfl := ruleStBuild_ok h
    exact .build
  case bsClear =>
    obtain ⟨-, h⟩ := withBs_ok_iff.mp h
    cases h
    exact .stream rfl _
  case bsPop | bsSet =>
    obtain ⟨-, h⟩ := withBs_ok_iff.mp h
    split at h <;> cases h
    exact .stream rfl _
  case bsAppb =>
    obtain ⟨-, -, rfl⟩ := ruleBsAppb_ok_iff.mp h
    exact .stream rfl _
  case bsAppu8 | bsAppu16 | bsAppu32 | bsAppu64 =>
    obtain ⟨-, -, rfl⟩ := ruleBsAppu_ok_iff.mp h
    exact .stream rfl _
  case bsCat =>
    obtain ⟨-, -, -, rfl⟩ := ruleBsCat_ok_iff.mp h
    exact .stream rfl _
  case bsAppt =>
    obtain ⟨-, -, -, rfl⟩ := ruleBsAppt_ok_iff.mp h
    exact .stream rfl _
  case bsRender =>
    obtain ⟨-, h⟩ := withTx_ok_iff.mp h
    obtain ⟨-, h⟩ := withBs_ok_iff.mp h
    split at h <;> cases h
    exact .text rfl _
  case txClear =>
    obtain ⟨-, h⟩ := withTx_ok_iff.mp h
    cases h
    exact .text rfl _
  case txPush | txSet =>
    obtain ⟨-, h⟩ := withTx_ok_iff.mp h
    split at h <;> cases h
    exact .text rfl _
  case encFixed =>
    obtain ⟨-, -, -, rfl⟩ := ruleEncFixed_ok_iff.mp h
    exact .stream rfl _
  case encBlock =>
    obtain ⟨-, -, -, _, -, -, rfl⟩ := ruleEncBlock_ok_iff.mp h
    exact .stream rfl _
  case encHuf a b =>
    obtain ⟨-, -, -, _, -, -, rfl⟩ := ruleEncHuf_ok_iff.mp h
    exact .encHuf a b _
  case encSf a b =>
    obtain ⟨-, -, -, _, -, -, -, rfl⟩ := ruleEncSf_ok_iff.mp h
    exact .encSf a b _
  case encArith a b =>
    obtain ⟨-, -, -, -, _, -, out, -, -, rfl⟩ := ruleEncArith_ok_iff.mp h
    exact .encArith a b out
  case encLz77 a b =>
    obtain ⟨-, -, -, _, -, -, rfl⟩ := ruleEncLz77_ok_iff.mp h
    exact .encLz77 a b _ _ _
  case encLzw a b =>
    obtain ⟨-, -, -, -, -, -, rfl⟩ := ruleEncLzw_ok_iff.mp h
    exact .encLzw a b _ _ _
  case prepHuf =>
    obtain ⟨-, rfl⟩ := rulePrepHuf_ok_iff.mp h
    exact .prepHuf
  case prepSf =>
    obtain ⟨-, rfl⟩ := rulePrepSf_ok_iff.mp h
    exact .prepSf
  case prepArith =>
    obtain ⟨-, rfl⟩ := rulePrepArith_ok_iff.mp h
    exact .prepArith
  case decFixed =>
    obtain ⟨-, -, x, -, rfl⟩ := ruleDecFixed_ok_iff.mp h
    exact .text rfl x
  case decBlock =>
    obtain ⟨-, -, -, x, -, rfl⟩ := ruleDecBlock_ok_iff.mp h
    exact .text rfl x
  case decHuf =>
    obtain ⟨-, -, -, -, x, -, rfl⟩ := ruleDecHuf_ok_iff.mp h
    exact .text rfl x
  case decSf =>
    obtain ⟨-, -, -, -, x, -, rfl⟩ := ruleDecSf_ok_iff.mp h
    exact .text rfl x
  case decArith =>
    obtain ⟨-, -, -, -, -, x, -, rfl⟩ := ruleDecArith_ok_iff.mp h
    exact .text rfl x
  case decLz77 =>
    obtain ⟨-, -, -, -, x, -, rfl⟩ := ruleDecLz77_ok_iff.mp h
    exact .text rfl x
  case decLzw a b =>
    obtain ⟨-, -, -, -, -, r, -, rfl⟩ := ruleDecLzw_ok_iff.mp h
    exact .decLzw a b _ r.1
  all_goals exact absurd rfl hi

end

/-! ### What a commit leaves -/

namespace Commits

variable {s t : State} {i : Instr} (h : Commits s i t)
include h

theorem host : SameHostSide s t := by cases h <;> constructor <;> rfl

theorem status : t.status = s.status := by cases h <;> rfl

theorem results_of_not_read (hi : isReadCommand i = false) : SameResults s t := by
  cases h
  case results hread => cases hi.symm.trans hread
  all_goals exact ⟨rfl, rfl⟩

theorem staging (hi : i ≠ .stStage) : t.staging = s.staging := by
  cases h
  case stage => exact absurd rfl hi
  all_goals rfl

theorem table (hi : i ≠ .stBuild) : t.table = s.table := by
  cases h
  case build => exact absurd rfl hi
  all_goals rfl

theorem eom (hi : i ≠ .regWr) : t.eom = s.eom := by
  cases h
  case register => exact absurd rfl hi
  all_goals rfl

theorem lz77 (hi : i ≠ .regWr) (henc : ∀ a b, i ≠ .encLz77 a b) :
    t.lz77Window = s.lz77Window ∧ t.lz77Lookahead = s.lz77Lookahead ∧ t.valid.lz77 = s.valid.lz77 := by
  cases h
  case register => exact absurd rfl hi
  case encLz77 a b _ _ _ => exact absurd rfl (henc a b)
  all_goals exact ⟨rfl, rfl, rfl⟩

theorem lzwBlocksize (hi : i ≠ .regWr) (henc : ∀ a b, i ≠ .encLzw a b) :
    t.lzwBlocksize = s.lzwBlocksize ∧ t.valid.lzw = s.valid.lzw := by
  cases h
  case register => exact absurd rfl hi
  case encLzw a b _ _ _ => exact absurd rfl (henc a b)
  all_goals exact ⟨rfl, rfl⟩

theorem lzwDictsize (henc : ∀ a b, i ≠ .encLzw a b) (hdec : ∀ a b, i ≠ .decLzw a b) :
    t.lzwDictsize = s.lzwDictsize := by
  cases h
  case encLzw a b _ _ _ => exact absurd rfl (henc a b)
  case decLzw a b _ _ => exact absurd rfl (hdec a b)
  all_goals rfl

theorem huf (henc : ∀ a b, i ≠ .encHuf a b) (hprep : i ≠ .prepHuf) :
    t.huf = s.huf ∧ (i ≠ .stBuild → t.valid.huf = s.valid.huf) := by
  cases h
  case encHuf a b _ => exact absurd rfl (henc a b)
  case prepHuf => exact absurd rfl hprep
  case build => exact ⟨rfl, fun hi => absurd rfl hi⟩
  all_goals exact ⟨rfl, fun _ => rfl⟩

theorem sf (henc : ∀ a b, i ≠ .encSf a b) (hprep : i ≠ .prepSf) :
    t.sf = s.sf ∧ (i ≠ .stBuild → t.valid.sf = s.valid.sf) := by
  cases h
  case encSf a b _ => exact absurd rfl (henc a b)
  case prepSf => exact absurd rfl hprep
  case build => exact ⟨rfl, fun hi => absurd rfl hi⟩
  all_goals exact ⟨rfl, fun _ => rfl⟩

theorem arith (henc : ∀ a b, i ≠ .encArith a b) (hprep : i ≠ .prepArith) :
    t.ar = s.ar ∧ (i ≠ .stBuild → t.valid.arith = s.valid.arith) := by
  cases h
  case encArith a b _ => exact absurd rfl (henc a b)
  case prepArith => exact absurd rfl hprep
  case build => exact ⟨rfl, fun hi => absurd rfl hi⟩
  all_goals exact ⟨rfl, fun _ => rfl⟩

end Commits

/-! ### The statements -/

section
variable {i : Instr} {s t : State}

/-- A command that ends has failed and kept the state, or committed; its completion came on top (R15, R313). -/
theorem exec_commits (h : exec i s = .next t) : ∃ r s', t = complete r s' ∧ (s' = s ∨ Commits s i s') := by
  rw [exec_eq_finish] at h
  obtain ⟨s', hr, rfl⟩ | ⟨e, -, rfl⟩ := finish_cases h
  · exact ⟨none, s', rfl, .inr (ruleOf_commits hr)⟩
  · exact ⟨some e, s, rfl, .inl rfl⟩

/-- What completion does not touch and a commit leaves, the whole command leaves. -/
theorem exec_frame {α : Type} (f : State → α) (hcomplete : ∀ r u, f (complete r u) = f u)
    (hcommit : ∀ u, Commits s i u → f u = f s) (h : exec i s = .next t) : f t = f s := by
  obtain ⟨r, u, rfl, rfl | hu⟩ := exec_commits h
  · exact hcomplete r u
  · exact (hcomplete r u).trans (hcommit u hu)

end

theorem exec_sameHostSide {i : Instr} {s t : State} (h : exec i s = .next t) : SameHostSide s t := by
  obtain ⟨r, u, rfl, rfl | hu⟩ := exec_commits h
  · constructor <;> rfl
  · exact { hu.host with }

/-- The commands that name RES0 and not RES1. -/
def writesRes0Only : Instr → Bool
  | .regRd | .bsGet _ | .bsLen _ | .txGet _ | .txLen _ | .stSize | .stSymat | .stIndexof => true
  | _ => false

theorem ruleOf_res1 {i : Instr} {s t : State} (hi : writesRes0Only i = true) (h : ruleOf i s = .ok t) :
    t.res1 = s.res1 := by
  cases i
  case regRd =>
    simp only [ruleOf, ruleRegRd] at h
    split at h <;> cases h
    rfl
  case bsGet | txGet =>
    simp only [ruleOf, ruleBsGet, ruleTxGet, withBs_ok_iff, withTx_ok_iff] at h
    obtain ⟨-, h⟩ := h
    split at h <;> cases h
    rfl
  case bsLen | txLen | stSize =>
    simp only [ruleOf, ruleBsLen, ruleTxLen, ruleStSize, withBs_ok_iff, withTx_ok_iff, withTable_ok_iff] at h
    obtain ⟨-, h⟩ := h
    cases h
    rfl
  case stSymat | stIndexof =>
    simp only [ruleOf, ruleStSymat, ruleStIndexof, withTable_ok_iff] at h
    obtain ⟨-, h⟩ := h
    split at h <;> cases h
    rfl
  all_goals cases hi

theorem exec_res1 {i : Instr} {s t : State} (hi : writesRes0Only i = true) (h : exec i s = .next t) :
    t.res1 = s.res1 := by
  rw [exec_eq_finish] at h
  obtain ⟨u, hu, rfl⟩ | ⟨e, -, rfl⟩ := finish_cases h
  · exact (ruleOf_res1 hi hu : u.res1 = s.res1)
  · rfl

theorem exec_sameResults {i : Instr} {s t : State} (hi : isReadCommand i = false) (h : exec i s = .next t) :
    SameResults s t := by
  obtain ⟨r, u, rfl, rfl | hu⟩ := exec_commits h
  · exact ⟨rfl, rfl⟩
  · exact { hu.results_of_not_read hi with }

/-! ### The statements -/

/-- Settles O20: a success writes the result registers alone, an error not even them. -/
theorem readCommandsChangeOnlyResults : Obligations.ReadCommandsChangeOnlyResults := by
  intro i s t hi h
  refine ⟨exec_sameHostSide h, ?_⟩
  rw [exec_eq_finish] at h
  obtain ⟨u, hu, rfl⟩ | ⟨e, -, rfl⟩ := finish_cases h
  · obtain ⟨r0, r1, rfl⟩ := ruleOf_read_ok hi hu
    exact ⟨rfl, ⟨rfl, rfl⟩, ⟨rfl, rfl, rfl, rfl, rfl⟩, ⟨rfl, rfl, rfl, rfl⟩, fun herr => absurd rfl herr⟩
  · exact ⟨rfl, ⟨rfl, rfl⟩, ⟨rfl, rfl, rfl, rfl, rfl⟩, ⟨rfl, rfl, rfl, rfl⟩, fun _ => ⟨rfl, rfl⟩⟩

/-- Settles O21: of the commits only ST_BUILD's holds a table, and a completion with an error has ERR not 0. -/
theorem onlyBuildWritesTheTable : Obligations.OnlyBuildWritesTheTable := by
  refine ⟨fun i s t hi h => ?_, fun s t h hok => ?_⟩
  · exact exec_frame State.table (fun _ _ => rfl) (fun _ hu => hu.table hi) h
  · obtain ⟨u, hu, rfl⟩ | ⟨e, -, rfl⟩ := finish_cases h
    · obtain rfl := ruleStBuild_ok hu
      rfl
    · exact absurd hok (errKind_ne_zero e)

/-- Settles O23: from what each commit leaves. -/
theorem codecStateHasFewWriters : Obligations.CodecStateHasFewWriters := by
  intro i s t h
  obtain ⟨r, u, rfl, rfl | hu⟩ := exec_commits h
  · exact ⟨fun _ => rfl, fun _ _ => ⟨rfl, rfl, rfl⟩, fun _ _ => ⟨rfl, rfl⟩, fun _ _ => rfl,
      fun _ _ => ⟨rfl, fun _ => rfl⟩, fun _ _ => ⟨rfl, fun _ => rfl⟩, fun _ _ => ⟨rfl, fun _ => rfl⟩⟩
  · exact ⟨hu.eom, hu.lz77, hu.lzwBlocksize, hu.lzwDictsize, hu.huf, hu.sf, hu.arith⟩

/-- Settles O24: from what each commit leaves; NOP commits nothing. -/
theorem portAndStagingFrame : Obligations.PortAndStagingFrame := by
  intro i s t h
  refine ⟨exec_sameHostSide h, fun hi => ?_, ?_, ?_⟩
  · exact exec_frame State.staging (fun _ _ => rfl) (fun _ hu => hu.staging hi) h
  · rintro (hi | rfl)
    · exact exec_sameResults hi h
    · cases h
      exact ⟨rfl, rfl⟩
  · intro hi
    refine exec_res1 ?_ h
    simp only [List.mem_cons, List.not_mem_nil, or_false] at hi
    rcases hi with ⟨a, rfl | rfl | rfl | rfl⟩ | rfl | rfl | rfl | rfl <;> rfl

/-! ### Sticky bits (R26, R342) -/

/-- The sticky bits of `s` are set in `t`. -/
def KeepsSticky (s t : State) : Prop :=
  (s.status.ovr = true → t.status.ovr = true) ∧ (s.status.anyErr = true → t.status.anyErr = true)

theorem keepsSticky_complete {s u : State} (r : Option Err) (h : u.status = s.status) :
    KeepsSticky s (complete r u) := by
  simp only [KeepsSticky, complete_ovr, complete_anyErr, h]
  exact ⟨id, fun hany => by rw [hany, Bool.true_or]⟩

theorem keepsSticky_exec {i : Instr} {s t : State} (h : exec i s = .next t) : KeepsSticky s t := by
  obtain ⟨r, u, rfl, rfl | hu⟩ := exec_commits h
  · exact keepsSticky_complete r rfl
  · exact keepsSticky_complete r hu.status

theorem keepsSticky_sequencerStep {s t : State} (h : sequencerStep s = .next t) : KeepsSticky s t := by
  unfold sequencerStep at h
  split at h
  · split at h
    · exact keepsSticky_exec h
    · cases h
      exact keepsSticky_complete (some .badOpcode) rfl
  · cases h
    exact ⟨id, id⟩

theorem keepsSticky_hostAccess (a : HostAccess) (s : State) : KeepsSticky s (hostAccess a s) := by
  cases a with
  | read off => exact ⟨id, id⟩
  | write off v =>
    simp only [hostAccess, portWrite, writeCmd]
    split_ifs <;> simp [KeepsSticky]

/-- Settles O11: the write by the busy branch of CMD; the bits by the agent whose turn it is. -/
theorem droppedCommandSetsStickyOverrun : Obligations.DroppedCommandSetsStickyOverrun := by
  refine ⟨fun s v ts hturn hbusy => ?_, fun s t hreset h => ?_⟩
  · rw [step_of_host hturn]
    exact congrArg _ (writeCmd_of_busy (s := { s with turns := ts }) hbusy)
  · match hturn : s.turns with
    | [] =>
      rw [step_of_no_turn hturn] at h
      exact keepsSticky_sequencerStep h
    | .sequencer :: ts =>
      rw [step_of_sequencer hturn] at h
      exact keepsSticky_sequencerStep (s := { s with turns := ts }) h
    | .host a :: ts =>
      rw [step_of_host hturn] at h
      cases h
      exact keepsSticky_hostAccess a { s with turns := ts }
    | .reset :: ts => exact absurd (by rw [hturn]; rfl) hreset

end Sys2Proof.Machine
end

section
/-! PROOFS. The derived state that no VALID bit vouches for (10_state.md R45 to R47): no command's answer depends on it,
so a step from a state and one from its masked form look the same to the world. -/

namespace Sys2Proof.Machine

/-! ### States that differ at most in unvouched derived state -/

/-- `s` with other contents of HUF, SF and AR. -/
def State.withDerived (s : State) (huf : HufState) (sf : SfState) (ar : ArState) : State :=
  { s with huf := huf, sf := sf, ar := ar }

section
variable {s t : State}

theorem masked_huf (h : s.valid.huf = true) : s.masked.huf = s.huf := if_pos h
theorem masked_sf (h : s.valid.sf = true) : s.masked.sf = s.sf := if_pos h
theorem masked_ar (h : s.valid.arith = true) : s.masked.ar = s.ar := if_pos h

theorem obsEq_withDerived {huf : HufState} {sf : SfState} {ar : ArState} (hh : s.valid.huf = true → huf = s.huf)
    (hf : s.valid.sf = true → sf = s.sf) (ha : s.valid.arith = true → ar = s.ar) :
    s.obsEq (s.withDerived huf sf ar) := by
  have hhuf : s.masked.huf = (s.withDerived huf sf ar).masked.huf :=
    if_ctx_congr Iff.rfl (fun h => (hh h).symm) fun _ => rfl
  have hsf : s.masked.sf = (s.withDerived huf sf ar).masked.sf :=
    if_ctx_congr Iff.rfl (fun h => (hf h).symm) fun _ => rfl
  have har : s.masked.ar = (s.withDerived huf sf ar).masked.ar :=
    if_ctx_congr Iff.rfl (fun h => (ha h).symm) fun _ => rfl
  calc s.masked = s.withDerived s.masked.huf s.masked.sf s.masked.ar := rfl
    _ = (s.withDerived huf sf ar).masked := by rw [hhuf, hsf, har]; rfl

theorem obsEq_masked (s : State) : s.obsEq s.masked := obsEq_withDerived masked_huf masked_sf masked_ar

theorem complete_obsEq (h : s.obsEq t) (r : Option Err) : (complete r s).obsEq (complete r t) :=
  congrArg (complete r) h

end

/-! ### Rules that answer the same -/

/-- Both rules raise the same error, or both succeed with states that differ at most in unvouched derived state. -/
inductive SameAnswer : Except Err State → Except Err State → Prop
  | ok {s t : State} (h : s.obsEq t) : SameAnswer (.ok s) (.ok t)
  | error (e : Err) : SameAnswer (.error e) (.error e)

namespace SameAnswer

/-- A write that leaves HUF, SF, AR and VALID[2..4] as they are: made over masked contents, it leaves them masked. -/
theorem plain {u : State} : SameAnswer (.ok u) (.ok (u.withDerived u.masked.huf u.masked.sf u.masked.ar)) :=
  .ok (obsEq_withDerived masked_huf masked_sf masked_ar)

variable {k k' : Except Err State} {e : Err}

/-- A test that must hold, as `withBs` to `withState` make it. -/
theorem require {c : Prop} [Decidable c] (h : c → SameAnswer k k') :
    SameAnswer (if c then k else .error e) (if c then k' else .error e) := by
  split
  · exact h ‹_›
  · exact .error e

/-- A test that must fail. -/
theorem reject {c : Prop} [Decidable c] (h : SameAnswer k k') :
    SameAnswer (if c then .error e else k) (if c then .error e else k') := by
  split
  · exact .error e
  · exact h

/-- A test whose proof the write uses, as ST_STAGE makes it. -/
theorem requireProof {c : Prop} [Decidable c] {f g : c → Except Err State}
    (h : ∀ hc : c, SameAnswer (f hc) (g hc)) :
    SameAnswer (if hc : c then f hc else .error e) (if hc : c then g hc else .error e) := by
  split
  · exact h ‹_›
  · exact .error e

theorem lookup {s : State} {msg : Text} {f g : List Nat → Except Err State}
    (h : ∀ idx, SameAnswer (f idx) (g idx)) :
    SameAnswer (withLookup s msg f) (withLookup s.masked msg g) := by
  have hlookup : s.masked.table.lookupAll msg = s.table.lookupAll msg := rfl
  rw [withLookup, withLookup, hlookup]
  cases s.table.lookupAll msg with
  | none => exact .error _
  | some idx => exact h idx

/-- A decoder's commit. -/
theorem storeText (s : State) (b : BufIdx) (out : Except Err Text) :
    SameAnswer (storeText b out s) (storeText b out s.masked) := by
  cases out with
  | error e => exact .error e
  | ok x => exact .plain

end SameAnswer

section
variable (s : State)

@[simp] theorem masked_cap : s.masked.cap = s.cap := rfl
@[simp] theorem masked_lArg0 : s.masked.lArg0 = s.lArg0 := rfl
@[simp] theorem masked_mem : s.masked.mem = s.mem := rfl
@[simp] theorem masked_table : s.masked.table = s.table := rfl
@[simp] theorem masked_lzwBlocksize : s.masked.lzwBlocksize = s.lzwBlocksize := rfl
@[simp] theorem arg0Nat_masked : arg0Nat s.masked = arg0Nat s := rfl
@[simp] theorem arg0Byte_masked : arg0Byte s.masked = arg0Byte s := rfl

end

/-- Over the masked state a rule meets the same tests. A plain write keeps what is unvouched unvouched, a builder puts the
same contents in both states, and after ST_BUILD nothing is vouched for. -/
theorem ruleOf_masked (i : Instr) (s : State) : SameAnswer (ruleOf i s) (ruleOf i s.masked) := by
  cases i
  case nop | avgFixed => exact .plain
  case bsClear | bsLen | txClear | txLen | stSize | avgBlock => exact .require fun _ => .plain
  case bsAppb | bsAppu8 | bsAppu16 | bsAppu32 | bsAppu64 | bsPop | bsSet | txPush | txSet | stSymat | stProbat =>
    exact .require fun _ => .reject .plain
  case bsCat | bsAppt | bsRender | encFixed => exact .require fun _ => .require fun _ => .reject .plain
  case regRd =>
    simp only [ruleOf, ruleRegRd, masked_lArg0]
    split
    · exact .error _
    · exact .plain
  case regWr =>
    simp only [ruleOf, ruleRegWr, masked_lArg0]
    split
    · exact .error _
    · rename_i r _
      cases r
      case eom | valid | lz77Window | lz77Lookahead | lzwBlocksize => exact .plain
      all_goals exact .error _
  case bsGet | txGet =>
    refine .require fun _ => ?_
    simp only [masked_mem, arg0Nat_masked]
    split
    · exact .error _
    · exact .plain
  case stIndexof =>
    refine .require fun _ => ?_
    simp only [masked_table, arg0Byte_masked]
    split
    · exact .error _
    · exact .plain
  case stStage => exact .requireProof fun _ => .plain
  case stBuild => exact .reject <| .reject <| .reject <| .ok (obsEq_withDerived nofun nofun nofun)
  case avgHuf =>
    refine .require fun _ => .require fun hv => ?_
    rw [masked_huf hv]
    exact .ok (obsEq_withDerived (fun _ => rfl) masked_sf masked_ar)
  case avgSf =>
    refine .require fun _ => .require fun hv => ?_
    rw [masked_sf hv]
    exact .ok (obsEq_withDerived masked_huf (fun _ => rfl) masked_ar)
  case prepHuf => exact .require fun _ => .ok (obsEq_withDerived (fun _ => rfl) masked_sf masked_ar)
  case prepSf => exact .require fun _ => .ok (obsEq_withDerived masked_huf (fun _ => rfl) masked_ar)
  case prepArith => exact .require fun _ => .ok (obsEq_withDerived masked_huf masked_sf fun _ => rfl)
  case encHuf =>
    exact .require fun _ => .require fun _ => .require fun _ => .lookup fun _ => .reject <|
      .ok (obsEq_withDerived (fun _ => rfl) masked_sf masked_ar)
  case encSf =>
    exact .require fun _ => .require fun _ => .require fun _ => .lookup fun _ => .reject <| .reject <|
      .ok (obsEq_withDerived masked_huf (fun _ => rfl) masked_ar)
  case encArith =>
    refine .require fun _ => .require fun _ => .require fun _ => .require fun _ => .lookup fun _ => ?_
    simp only [masked_table]
    split
    · exact .error _
    · exact .reject <| .ok (obsEq_withDerived masked_huf masked_sf fun _ => rfl)
  case encBlock | encLz77 =>
    exact .require fun _ => .require fun _ => .require fun _ => .lookup fun _ => .reject .plain
  case encLzw =>
    exact .require fun _ => .require fun _ => .require fun _ => .require fun _ => .lookup fun _ => .reject .plain
  case decFixed => exact .require fun _ => .require fun _ => .storeText ..
  case decBlock => exact .require fun _ => .require fun _ => .require fun _ => .storeText ..
  case decLz77 =>
    exact .require fun _ => .require fun _ => .require fun _ => .require fun _ => .storeText ..
  case decHuf =>
    refine .require fun _ => .require fun _ => .require fun _ => .require fun hv => ?_
    rw [masked_huf hv]
    exact .storeText ..
  case decSf =>
    refine .require fun _ => .require fun _ => .require fun _ => .require fun hv => ?_
    rw [masked_sf hv]
    exact .storeText ..
  case decArith =>
    refine .require fun _ => .require fun _ => .require fun _ => .require fun _ => .require fun hv => ?_
    rw [masked_ar hv]
    exact .storeText ..
  case decLzw =>
    refine .require fun _ => .require fun _ => .require fun _ => .require fun _ => .require fun _ => ?_
    simp only [masked_table, masked_mem, masked_cap, masked_lzwBlocksize]
    split
    · exact .error _
    · exact .plain

/-! ### The step, and what the world sees -/

/-- Both answer a next state, and the two differ at most in unvouched derived state. -/
def SameNext (o o' : Host.Outcome State Fault Refusal) : Prop :=
  ∃ s' t', o = .next s' ∧ o' = .next t' ∧ s'.obsEq t'

theorem finish_sameNext {s t : State} {r r' : Except Err State} (hs : s.obsEq t) (h : SameAnswer r r') :
    SameNext (finish s r) (finish t r') := by
  cases h with
  | ok h => exact ⟨_, _, rfl, rfl, complete_obsEq h none⟩
  | error e => exact ⟨_, _, rfl, rfl, complete_obsEq hs (some e)⟩

theorem exec_masked (i : Instr) (s : State) : SameNext (exec i s) (exec i s.masked) := by
  rw [exec_eq_finish, exec_eq_finish]
  exact finish_sameNext (obsEq_masked s) (ruleOf_masked i s)

theorem sequencerStep_masked (s : State) : SameNext (sequencerStep s) (sequencerStep s.masked) := by
  cases hbusy : s.status.busy with
  | false =>
    rw [sequencerStep_of_idle hbusy, sequencerStep_of_idle (s := s.masked) hbusy]
    exact ⟨_, _, rfl, rfl, obsEq_masked s⟩
  | true =>
    match hword : decode s.lCmd with
    | .ok i =>
      rw [sequencerStep_of_decode hbusy hword, sequencerStep_of_decode (s := s.masked) hbusy hword]
      exact exec_masked i s
    | .error .badOpcode =>
      rw [sequencerStep_of_illegal hbusy hword, sequencerStep_of_illegal (s := s.masked) hbusy hword]
      exact finish_sameNext (obsEq_masked s) (.error _)

theorem writeCmd_masked (s : State) (v : Word64) : (writeCmd s v).masked = writeCmd s.masked v := by
  cases hbusy : s.status.busy with
  | false => rw [writeCmd_of_idle hbusy, writeCmd_of_idle (s := s.masked) hbusy]; rfl
  | true => rw [writeCmd_of_busy hbusy, writeCmd_of_busy (s := s.masked) hbusy]; rfl

theorem hostAccess_masked (a : HostAccess) (s : State) : (hostAccess a s).masked = hostAccess a s.masked := by
  cases a with
  | read off => rfl
  | write off v =>
    simp only [hostAccess, portWrite, ← writeCmd_masked]
    split_ifs <;> rfl

theorem hostAccess_obsEq {s t : State} (h : s.obsEq t) (a : HostAccess) : (hostAccess a s).obsEq (hostAccess a t) :=
  (hostAccess_masked a s).trans ((congrArg (hostAccess a) h).trans (hostAccess_masked a t).symm)

theorem step_masked (s : State) : SameNext (step s) (step s.masked) := by
  match hturn : s.turns with
  | [] =>
    rw [step_of_no_turn hturn, step_of_no_turn (s := s.masked) hturn]
    exact sequencerStep_masked s
  | .sequencer :: ts =>
    rw [step_of_sequencer hturn, step_of_sequencer (s := s.masked) hturn]
    exact sequencerStep_masked { s with turns := ts }
  | .host a :: ts =>
    rw [step_of_host hturn, step_of_host (s := s.masked) hturn]
    exact ⟨_, _, rfl, rfl, hostAccess_obsEq (obsEq_masked { s with turns := ts }) a⟩
  | .reset :: ts =>
    rw [step_of_reset hturn, step_of_reset (s := s.masked) hturn]
    exact ⟨_, _, rfl, rfl, rfl⟩

theorem observe_masked (s : State) : observe s.masked = observe s := by
  have hhuf : (observe s.masked).huf = (observe s).huf :=
    if_ctx_congr Iff.rfl (fun h => by rw [masked_huf h]) fun _ => rfl
  have hsf : (observe s.masked).sf = (observe s).sf :=
    if_ctx_congr Iff.rfl (fun h => by rw [masked_sf h]; rfl) fun _ => rfl
  have har : (observe s.masked).ar = (observe s).ar :=
    if_ctx_congr Iff.rfl (fun h => by rw [masked_ar h]) fun _ => rfl
  calc observe s.masked = { observe s with huf := (observe s.masked).huf, sf := (observe s.masked).sf,
                                           ar := (observe s.masked).ar } := rfl
    _ = observe s := by rw [hhuf, hsf, har]

/-- Settles O60: each of the two states steps as their common masked form does. -/
theorem unvouchedStateIsUnobservable : Obligations.UnvouchedStateIsUnobservable := by
  intro s t h
  have hobs : observe s = observe t := by rw [← observe_masked s, h, observe_masked t]
  obtain ⟨s', u, hs, hu, hsu⟩ := step_masked s
  obtain ⟨t', v, ht, hv, htv⟩ := step_masked t
  have huv : u = v := by
    rw [h] at hu
    exact Host.Outcome.next.inj (hu.symm.trans hv)
  exact ⟨hobs, s', t', hs, ht, hsu.trans (huv ▸ htv.symm)⟩

end Sys2Proof.Machine
end

section
/-! PROOFS. The buffers (20_memory.md R68, 30_encoding.md R81): a command writes the one buffer its destination field names,
and no other. -/

namespace Sys2Proof.Machine

/-- `Writes i m m'`: `m'` is the memory `m` with at most command `i`'s own destination buffer replaced. -/
inductive Writes (i : Instr) (m : Memory) : Memory → Prop
  | nothing : Writes i m m
  | stream {a : BufIdx} (hi : destStream i = some a) (v : BitSeq) : Writes i m (m.setBs a v)
  | text {a : BufIdx} (hi : destText i = some a) (v : Text) : Writes i m (m.setTx a v)

theorem Commits.writes {i : Instr} {s t : State} (h : Commits s i t) : Writes i s.mem t.mem := by
  cases h
  case stream v hi => exact .stream hi v
  case text v hi => exact .text hi v
  case encHuf v | encSf v | encArith v | encLz77 v | encLzw v => exact .stream rfl v
  case decLzw v => exact .text rfl v
  all_goals exact .nothing

theorem exec_writes {i : Instr} {s t : State} (h : exec i s = .next t) : Writes i s.mem t.mem := by
  obtain ⟨r, u, rfl, rfl | hu⟩ := exec_commits h
  · exact .nothing
  · exact hu.writes

namespace Writes

variable {i : Instr} {m m' : Memory} (h : Writes i m m') {b : BufIdx}
include h

theorem getBs (hb : destStream i ≠ some b) : m'.getBs b = m.getBs b := by
  cases h with
  | nothing => rfl
  | stream hi v => exact getBs_setBs_ne m _ b v fun hab => hb (hab ▸ hi)
  | text hi v => exact getBs_setTx m b _ v

theorem getTx (hb : destText i ≠ some b) : m'.getTx b = m.getTx b := by
  cases h with
  | nothing => rfl
  | stream hi v => exact getTx_setBs m _ b v
  | text hi v => exact getTx_setTx_ne m _ b v fun hab => hb (hab ▸ hi)

end Writes

/-- Settles O22: what a command writes is its destination, and a write elsewhere is not read. -/
theorem commandsWriteOnlyTheirDestination : Obligations.CommandsWriteOnlyTheirDestination := by
  intro i s t h
  exact ⟨fun _ => (exec_writes h).getBs, fun _ => (exec_writes h).getTx⟩

end Sys2Proof.Machine
end

section
/-! PROOFS. The opcode map (30_encoding.md R80 to R88): a word that a row matches is the word of the row's command, so
decoding and encoding agree and reserved words match no row. -/

namespace Sys2Proof

/-! ### A legal word is the word of its row (R82, R88) -/

/-- A word is legal exactly when a row of the opcode map matches it, and then it is the command of that row. -/
theorem decode_eq_ok_iff {w : Word32} {i : Instr} :
    decode w = .ok i ↔ ∃ row ∈ opRows, rowMatches w row = true ∧ rowInstr w row.2 = i := by
  constructor
  · intro h
    unfold decode at h
    split at h
    · next row hfind => exact ⟨row, List.mem_of_find?_eq_some hfind, List.find?_some hfind, by injection h⟩
    · cases h
  · rintro ⟨row, hrow, hmatch, rfl⟩
    exact decode_of_rowMatches hrow hmatch

/-- Fields A and B as a row's command holds them: 0 where the row has no such field. -/
def rowFields (w : Word32) : RowShape → BufIdx × BufIdx
  | .none _ => (0, 0)
  | .a _ => (aField w, 0)
  | .ab _ => (aField w, bField w)

theorem opRows_fields_zero : ∀ row ∈ opRows, aField row.1 = 0 ∧ bField row.1 = 0 ∧ rsvField row.1 = 0 := by decide

section
variable {w : Word32} {row : Word32 × RowShape} (hrow : row ∈ opRows)
include hrow

theorem encode_rowInstr : encode (rowInstr w row.2) =
    assemble (cField row.1) (rowFields w row.2).2 (rowFields w row.2).1 (opcField row.1) := by
  simp only [opRows, opRowsBuffers, opRowsTable, opRowsCodecs] at hrow
  fin_cases hrow <;> rfl

variable (h : rowMatches w row = true)
include h

theorem rsvField_of_rowMatches : rsvField w = 0 := by
  obtain ⟨-, -, hzero⟩ := opRows_fields_zero row hrow
  rw [rowMatches, beq_iff_eq] at h
  rwa [← h, rsvField_and, rsvField_rowMask, BitVec.and_allOnes] at hzero

theorem aField_of_rowMatches (hmask : aField (rowMask row.2) = BitVec.allOnes 4) : aField w = 0 := by
  obtain ⟨hzero, -, -⟩ := opRows_fields_zero row hrow
  rw [rowMatches, beq_iff_eq] at h
  rwa [← h, aField_and, hmask, BitVec.and_allOnes] at hzero

theorem bField_of_rowMatches (hmask : bField (rowMask row.2) = BitVec.allOnes 4) : bField w = 0 := by
  obtain ⟨-, hzero, -⟩ := opRows_fields_zero row hrow
  rw [rowMatches, beq_iff_eq] at h
  rwa [← h, bField_and, hmask, BitVec.and_allOnes] at hzero

/-- A field that a row does not use is 0 in the words it matches (R81). -/
theorem rowFields_of_rowMatches : rowFields w row.2 = (aField w, bField w) := by
  have ha := aField_of_rowMatches hrow h
  have hb := bField_of_rowMatches hrow h
  cases hshape : row.2 <;> rw [hshape] at ha hb
  case none => rw [rowFields, ha (by simp only [rowMask]; decide), hb (by simp only [rowMask]; decide)]
  case a => rw [rowFields, hb (by simp only [rowMask]; decide)]
  case ab => rfl

theorem encode_of_rowMatches : encode (rowInstr w row.2) = w := by
  have hkey := rowKey_of_rowMatches h
  simp only [rowKey, Prod.mk.injEq] at hkey
  obtain ⟨hopc, hc⟩ := hkey
  rw [encode_rowInstr hrow, rowFields_of_rowMatches hrow h, ← hopc, ← hc]
  exact word_ext (opcField_assemble ..) (aField_assemble ..) (bField_assemble ..) (cField_assemble ..)
    ((rsvField_assemble ..).trans (rsvField_of_rowMatches hrow h).symm)

end

/-- Settles O2: the row a word matches gives back the word, and every command's word matches its row. -/
theorem decodeAndEncodeAgree : Obligations.DecodeAndEncodeAgree := by
  intro w i
  constructor
  · intro h
    obtain ⟨row, hrow, hmatch, rfl⟩ := decode_eq_ok_iff.mp h
    exact (encode_of_rowMatches hrow hmatch).symm
  · rintro rfl
    exact decode_encode i

/-- Settles O3: two rows that match a word would share OPC and C. -/
theorem legalWordMatchesExactlyOneRow : Obligations.LegalWordMatchesExactlyOneRow := by
  intro w
  have hle : (opRows.filter (rowMatches w)).length ≤ 1 := by
    have hpair := opRows_pairwise_rowKey.filter (rowMatches w)
    have hmatch : ∀ row ∈ opRows.filter (rowMatches w), rowMatches w row = true := fun _ => List.of_mem_filter
    match hrows : opRows.filter (rowMatches w) with
    | [] | [_] => simp
    | x :: y :: rest =>
      rw [hrows] at hpair hmatch
      have hx := rowKey_of_rowMatches (hmatch x (.head _))
      have hy := rowKey_of_rowMatches (hmatch y (.tail _ (.head _)))
      exact absurd (hx.symm.trans hy) (List.rel_of_pairwise_cons hpair (.head _))
  refine ⟨hle, ?_⟩
  calc (∃ i, decode w = .ok i)
      ↔ ∃ row, row ∈ opRows.filter (rowMatches w) := by simp [decode_eq_ok_iff]
    _ ↔ 0 < (opRows.filter (rowMatches w)).length := List.length_pos_iff_exists_mem.symm
    _ ↔ (opRows.filter (rowMatches w)).length = 1 := by omega

/-! ### Reserved words (R81, R82, R87) -/

/-- The operations and codec numbers of the table (R86). -/
theorem opRows_key : ∀ row ∈ opRows,
    ((opcField row.1).toNat < 3 ∨ (0x10 ≤ (opcField row.1).toNat ∧ (opcField row.1).toNat ≤ 0x1C) ∨
      (0x20 ≤ (opcField row.1).toNat ∧ (opcField row.1).toNat ≤ 0x24) ∨
      (0x30 ≤ (opcField row.1).toNat ∧ (opcField row.1).toNat ≤ 0x35) ∨
      (0x40 ≤ (opcField row.1).toNat ∧ (opcField row.1).toNat ≤ 0x43)) ∧
    (cField row.1).toNat < 7 ∧ ((opcField row.1).toNat < 0x40 → cField row.1 = 0) ∧
    (opcField row.1 = 0x42 → (cField row.1).toNat < 4) ∧
    (opcField row.1 = 0x43 → ¬ (cField row.1 = 0 ∨ cField row.1 = 1 ∨ 5 ≤ (cField row.1).toNat)) := by
  decide

/-- The masks of the operations without A and B, and of those without B, cover the fields they do not use (R86). -/
theorem opRows_mask_of_unused : ∀ row ∈ opRows,
    (opcField row.1 ∈ [0x00#8, 0x01#8, 0x02#8, 0x30#8, 0x31#8, 0x32#8, 0x33#8, 0x34#8, 0x35#8, 0x42#8, 0x43#8] →
      aField (rowMask row.2) = BitVec.allOnes 4 ∧ bField (rowMask row.2) = BitVec.allOnes 4) ∧
    (opcField row.1 ∈ [0x10#8, 0x11#8, 0x12#8, 0x13#8, 0x14#8, 0x15#8, 0x18#8, 0x19#8, 0x1A#8, 0x1B#8, 0x20#8, 0x21#8,
        0x22#8, 0x23#8, 0x24#8] → bField (rowMask row.2) = BitVec.allOnes 4) := by
  decide

/-- Settles O4: of a word that a row matches, RSV is 0, OPC and C are the row's, and so are the fields it does not use. -/
theorem reservedWordsAreRejected : Obligations.ReservedWordsAreRejected := by
  intro w hreserved
  match hword : decode w with
  | .error .badOpcode => rfl
  | .ok i =>
    obtain ⟨row, hrow, hmatch, -⟩ := decode_eq_ok_iff.mp hword
    obtain ⟨hopc, hc⟩ := Prod.mk.inj (rowKey_of_rowMatches hmatch)
    obtain ⟨hopcs, hcs, hc0, hc42, hc43⟩ := opRows_key row hrow
    obtain ⟨hunused, hunusedB⟩ := opRows_mask_of_unused row hrow
    rw [hopc, hc] at hreserved
    exfalso
    rcases hreserved with hrsv | ho | ho | ho | ho | ho | h7 | ⟨ho, h0⟩ | ⟨ho, h4⟩ | ⟨ho, hno⟩ | ⟨ho, ha | hb⟩ |
      ⟨ho, hb⟩
    any_goals omega
    · exact hrsv (rsvField_of_rowMatches hrow hmatch)
    · exact h0 (hc0 ho)
    · exact absurd (hc42 ho) (Nat.not_lt.mpr h4)
    · exact hc43 ho hno
    · exact ha (aField_of_rowMatches hrow hmatch (hunused ho).1)
    · exact hb (bField_of_rowMatches hrow hmatch (hunused ho).2)
    · exact hb (bField_of_rowMatches hrow hmatch (hunusedB ho))

/-- Settles O1: each legal word is the word of its command, and the two others are of a reserved class. -/
theorem specWordsDecode : Obligations.SpecWordsDecode :=
  ⟨decode_encode .nop, decode_encode .regRd, decode_encode (.bsSet 0), decode_encode (.bsRender 3 1),
    decode_encode (.txLen 15), decode_encode .stBuild, decode_encode (.encBlock 1 0), decode_encode (.decHuf 1 0),
    decode_encode .avgSf, decode_encode (.decArith 2 1), decode_encode (.encLz77 1 1), decode_encode (.decLzw 1 0),
    reservedWordsAreRejected 0x00100000 (by decide), reservedWordsAreRejected 0x00040042 (by decide)⟩

end Sys2Proof

namespace Sys2Proof.Machine

/-! ### A word that is no command (R82; 60_exceptions.md R313) -/

theorem completedWith_complete (e : Err) (s : State) : CompletedWith e s (complete (some e) s) := by
  constructor
  case anyErr => exact Bool.or_true _
  case host | results | tables | config | derived => constructor <;> rfl
  all_goals rfl

theorem sequencerStep_completes_illegal {s : State} (hbusy : s.status.busy = true)
    (hword : decode s.lCmd = .error .badOpcode) : ∃ t, sequencerStep s = .next t ∧ CompletedWith .badOpcode s t :=
  ⟨_, sequencerStep_of_illegal hbusy hword, completedWith_complete .badOpcode s⟩

/-- Settles O6: the turn is the sequencer's, with no turns left or by its own, and the word is illegal. -/
theorem illegalWordCompletesAsBadOpcode : Obligations.IllegalWordCompletesAsBadOpcode := by
  intro s ts hbusy hword
  constructor
  · intro hturn
    rw [step_of_no_turn hturn]
    exact sequencerStep_completes_illegal hbusy hword
  · intro hturn
    rw [step_of_sequencer hturn]
    exact sequencerStep_completes_illegal (s := { s with turns := ts }) hbusy hword

end Sys2Proof.Machine
end

section
/-! PROOFS. The host-port sequence of a command (30_encoding.md R89; 70_reset_and_hazards.md R341): no command's answer
depends on the turns still to come, so a run of turns is a run of the commands' meanings. -/

namespace Sys2Proof.Machine

/-! ### A rule does not read the turns still to come -/

/-- The state with another list of turns still to come. -/
def State.withTurns (s : State) (ts : List Turn) : State := { s with turns := ts }

section
variable (s : State) (ts : List Turn)

@[simp] theorem withTurns_cap : (s.withTurns ts).cap = s.cap := rfl
@[simp] theorem withTurns_lArg0 : (s.withTurns ts).lArg0 = s.lArg0 := rfl
@[simp] theorem withTurns_mem : (s.withTurns ts).mem = s.mem := rfl
@[simp] theorem withTurns_table : (s.withTurns ts).table = s.table := rfl
@[simp] theorem withTurns_lzwBlocksize : (s.withTurns ts).lzwBlocksize = s.lzwBlocksize := rfl
@[simp] theorem arg0Nat_withTurns : arg0Nat (s.withTurns ts) = arg0Nat s := rfl
@[simp] theorem arg0Byte_withTurns : arg0Byte (s.withTurns ts) = arg0Byte s := rfl

end

section
variable {s : State} {ts : List Turn}

/-- A test that both sides make alike, as `withBs` to `withState` and the rules' own tests do. -/
theorem map_branch {c : Prop} [Decidable c] {f : State → State} {k k' r r' : Except Err State} (h : r = k.map f)
    (h' : r' = k'.map f) : (if c then r else r') = (if c then k else k').map f := by
  rw [h, h', apply_ite (Except.map f)]

theorem map_require {c : Prop} [Decidable c] {f : State → State} {k r : Except Err State} {e : Err}
    (h : r = k.map f) : (if c then r else .error e) = (if c then k else .error e).map f :=
  map_branch h rfl

theorem withLookup_withTurns {msg : Text} {g k : List Nat → Except Err State}
    (h : ∀ idx, g idx = (k idx).map (·.withTurns ts)) :
    withLookup (s.withTurns ts) msg g = (withLookup s msg k).map (·.withTurns ts) := by
  rw [withLookup, withLookup, withTurns_table]
  cases s.table.lookupAll msg with
  | none => rfl
  | some idx => exact h idx

theorem storeText_withTurns (b : BufIdx) (out : Except Err Text) :
    storeText b out (s.withTurns ts) = (storeText b out s).map (·.withTurns ts) := by
  cases out <;> rfl

end

theorem regWrite_withTurns (s : State) (ts : List Turn) (v : Word64) (r : Reg) :
    regWrite (s.withTurns ts) v r = (regWrite s v r).map (·.withTurns ts) := by
  cases r <;> rfl

theorem ruleOf_withTurns (i : Instr) (s : State) (ts : List Turn) :
    ruleOf i (s.withTurns ts) = (ruleOf i s).map (·.withTurns ts) := by
  cases i
  case nop | avgFixed => rfl
  case bsClear | bsLen | txClear | txLen | stSize | avgBlock | prepHuf | prepSf | prepArith => exact map_require rfl
  case bsAppb | bsAppu8 | bsAppu16 | bsAppu32 | bsAppu64 | bsPop | bsSet | txPush | txSet | stSymat | stProbat
      | avgHuf | avgSf =>
    exact map_require <| map_branch rfl rfl
  case bsCat | bsAppt | bsRender | encFixed => exact map_require <| map_require <| map_branch rfl rfl
  case stBuild => exact map_branch rfl <| map_branch rfl <| map_branch rfl rfl
  case regRd =>
    simp only [ruleOf, ruleRegRd, withTurns_lArg0]
    cases regOfNumber s.lArg0 <;> rfl
  case regWr =>
    simp only [ruleOf, ruleRegWr, withTurns_lArg0]
    cases regOfNumber s.lArg0 with
    | none => rfl
    | some r => exact regWrite_withTurns s ts s.lArg1 r
  case bsGet a =>
    refine map_require ?_
    simp only [withTurns_mem, arg0Nat_withTurns]
    cases (s.mem.getBs a)[arg0Nat s]? <;> rfl
  case txGet a =>
    refine map_require ?_
    simp only [withTurns_mem, arg0Nat_withTurns]
    cases (s.mem.getTx a)[arg0Nat s]? <;> rfl
  case stIndexof =>
    refine map_require ?_
    simp only [withTurns_table, arg0Byte_withTurns]
    cases s.table.indexOf (arg0Byte s) <;> rfl
  case stStage =>
    simp only [ruleOf, ruleStStage, arg0Nat_withTurns, apply_dite (Except.map (State.withTurns · ts))]
    rfl
  case encBlock | encHuf | encLz77 =>
    exact map_require <| map_require <| map_require <| withLookup_withTurns fun _ => map_branch rfl rfl
  case encSf =>
    exact map_require <| map_require <| map_require <| withLookup_withTurns fun _ => map_branch rfl <|
      map_branch rfl rfl
  case encArith =>
    refine map_require <| map_require <| map_require <| map_require <| withLookup_withTurns fun idx => ?_
    rw [withTurns_table]
    cases arEncode (arBuild s.table) s.table.total idx with
    | error e => rfl
    | ok out => exact map_branch rfl rfl
  case encLzw =>
    exact map_require <| map_require <| map_require <| map_require <| withLookup_withTurns fun _ => map_branch rfl rfl
  case decFixed => exact map_require <| map_require <| storeText_withTurns ..
  case decBlock => exact map_require <| map_require <| map_require <| storeText_withTurns ..
  case decLz77 | decHuf | decSf =>
    exact map_require <| map_require <| map_require <| map_require <| storeText_withTurns ..
  case decArith =>
    exact map_require <| map_require <| map_require <| map_require <| map_require <| storeText_withTurns ..
  case decLzw a b =>
    refine map_require <| map_require <| map_require <| map_require <| map_require ?_
    simp only [withTurns_table, withTurns_mem, withTurns_cap, withTurns_lzwBlocksize]
    cases lzwDecode s.table s.lzwBlocksize.toNat s.cap.tcap (s.mem.getBs b) <;> rfl

theorem exec_withTurns {i : Instr} {s t : State} (h : exec i s = .next t) (ts : List Turn) :
    exec i (s.withTurns ts) = .next (t.withTurns ts) := by
  rw [exec_eq_finish] at h ⊢
  rw [ruleOf_withTurns]
  obtain ⟨u, hr, rfl⟩ | ⟨e, hr, rfl⟩ := finish_cases h <;> (rw [hr]; rfl)

theorem writeCmd_withTurns (s : State) (v : Word64) (ts : List Turn) :
    writeCmd (s.withTurns ts) v = (writeCmd s v).withTurns ts := by
  rw [writeCmd, writeCmd, apply_ite (State.withTurns · ts)]
  rfl

theorem hostAccess_withTurns (a : HostAccess) (s : State) (ts : List Turn) :
    hostAccess a (s.withTurns ts) = (hostAccess a s).withTurns ts := by
  cases a with
  | read off => rfl
  | write off v =>
    simp only [hostAccess, portWrite, apply_ite (State.withTurns · ts), writeCmd_withTurns]
    rfl

/-! ### A run of turns -/

theorem run_of_step {M : Host.Core} {s t : M.State} {k : Nat} (h : M.step s = .next t) :
    M.run (k + 1) s = M.run k t := by
  rw [Host.Core.run, h]

/-- The run that takes all of a list of turns. -/
def runTurns (ts : List Turn) (s : State) : Host.Outcome State Fault Refusal :=
  Sys2Proof.core.run ts.length (s.withTurns ts)

section
variable {s t : State} {ts : List Turn}

theorem runTurns_nil (h : s.turns = []) : runTurns [] s = .next s :=
  congrArg _ (show { s with turns := [] } = s by rw [← h])

theorem runTurns_host (a : HostAccess) : runTurns (.host a :: ts) s = runTurns ts (hostAccess a s) :=
  congrArg (Sys2Proof.core.run ts.length) (hostAccess_withTurns a s ts)

theorem runTurns_argWrite (off : Nat) (v : Option Word64) :
    runTurns (argWrite off v ++ ts) s = runTurns ts (v.elim s (portWrite s off)) := by
  cases v with
  | none => rfl
  | some v => exact runTurns_host (.write off v)

theorem runTurns_sequencer {i : Instr} (hbusy : s.status.busy = true) (hword : decode s.lCmd = .ok i)
    (h : exec i s = .next t) : runTurns (.sequencer :: ts) s = runTurns ts t := by
  have hstep : step (s.withTurns (.sequencer :: ts)) = .next (t.withTurns ts) :=
    calc step (s.withTurns (.sequencer :: ts))
        = sequencerStep (s.withTurns ts) := step_of_sequencer (s := s.withTurns (.sequencer :: ts)) rfl
      _ = exec i (s.withTurns ts) := sequencerStep_of_decode (s := s.withTurns ts) hbusy hword
      _ = .next (t.withTurns ts) := exec_withTurns h ts
  exact run_of_step hstep

end

/-! ### The sequence of a command -/

theorem issueCommand_of_idle (c : AsmCmd) {s : State} (hidle : s.status.busy = false) :
    (issueCommand c s).status.busy = true ∧ (issueCommand c s).lCmd = encode c.instr ∧
      (issueCommand c s).turns = s.turns := by
  unfold issueCommand
  rw [writeCmd_of_idle (by exact hidle)]
  refine ⟨rfl, ?_, rfl⟩
  exact (BitVec.extractLsb'_setWidth_of_le (by decide)).trans BitVec.extractLsb'_eq_self

/-- R341: the ARG writes, the CMD write and the sequencer's turn run the command in the state `issueCommand` names. -/
theorem runTurns_asmTurns {c : AsmCmd} {s t : State} (hidle : s.status.busy = false)
    (h : exec c.instr (issueCommand c s) = .next t) (ts : List Turn) :
    runTurns (asmTurns c ++ ts) s = runTurns (.host (.read 0x30) :: ts) t := by
  obtain ⟨hbusy, hcmd, -⟩ := issueCommand_of_idle c hidle
  have hword : decode (issueCommand c s).lCmd = .ok c.instr := by rw [hcmd]; exact decode_encode c.instr
  calc runTurns (asmTurns c ++ ts) s
      = runTurns (.sequencer :: .host (.read 0x30) :: ts) (issueCommand c s) := by
        simp only [asmTurns, List.append_assoc, runTurns_argWrite, List.cons_append, List.nil_append, runTurns_host]
        obtain ⟨i, _ | _, _ | _, _ | _⟩ := c <;> rfl
    _ = runTurns (.host (.read 0x30) :: ts) t := runTurns_sequencer hbusy hword h

/-- Settles O9: the command runs at the sequencer's turn, and the reads after it record STATUS, RES0 and RES1. -/
theorem hostProtocolRunsTheCommand : Obligations.HostProtocolRunsTheCommand := by
  intro c s hturns hidle
  obtain ⟨t, h⟩ := finish_answers_next (issueCommand c s) (ruleOf c.instr (issueCommand c s))
  rw [← exec_eq_finish] at h
  have ht : t.turns = [] := by
    obtain ⟨-, -, hkept⟩ := issueCommand_of_idle c hidle
    rw [(exec_sameHostSide h).turns, hkept, hturns]
  refine ⟨t, h, ?_, ?_⟩
  · have hrun := runTurns_asmTurns hidle h []
    rw [List.append_nil, runTurns_host, runTurns_nil (by exact ht)] at hrun
    exact hrun
  · have hrun := runTurns_asmTurns hidle h resultReads
    rw [resultReads, runTurns_host, runTurns_host, runTurns_host, runTurns_nil (by exact ht)] at hrun
    exact hrun

end Sys2Proof.Machine
end

section
/-! PROOFS. The check of the buffer fields (30_encoding.md R83; 60_exceptions.md R310): every rule makes it first, and
nothing after it raises ILLEGAL(BAD_BUFFER). -/

namespace Sys2Proof.Machine

/-! ### The codecs do not raise BAD_BUFFER -/

/-- The computation does not raise ILLEGAL(BAD_BUFFER). -/
def NoBadBuffer {α : Type} (r : Except Err α) : Prop := r ≠ .error .badBuffer

namespace NoBadBuffer

variable {α : Type}

theorem ok (x : α) : NoBadBuffer (.ok x : Except Err α) := nofun

theorem error {e : Err} (h : e ≠ .badBuffer := by decide) : NoBadBuffer (.error e : Except Err α) :=
  fun he => h (by injection he)

theorem branch {c : Prop} [Decidable c] {k k' : Except Err α} (h : NoBadBuffer k) (h' : NoBadBuffer k') :
    NoBadBuffer (if c then k else k') := by
  split
  · exact h
  · exact h'

/-- An error passed on is one that was raised. -/
theorem passed {β : Type} {r : Except Err β} (h : NoBadBuffer r) {e : Err} (hr : r = .error e) :
    NoBadBuffer (.error e : Except Err α) :=
  error fun he => h (hr.trans (congrArg _ he))

theorem emitSym {rest : Nat → Except Err Text} (h : ∀ r, NoBadBuffer (rest r)) (room : Nat) (c : Byte) :
    NoBadBuffer (emitSym room c rest) := by
  cases room with
  | zero => exact error
  | succ r =>
    unfold Machine.emitSym
    dsimp only
    split
    · exact ok _
    · next hr => exact (h r).passed hr

theorem decodeGroups {symOf : BitSeq → Except Err Byte} (h : ∀ g, NoBadBuffer (symOf g)) (gs : List BitSeq) (room : Nat) :
    NoBadBuffer (decodeGroups symOf gs room) := by
  induction gs generalizing room with
  | nil => exact ok _
  | cons g gs ih =>
    unfold Machine.decodeGroups
    split
    · next hr => exact (h g).passed hr
    · exact emitSym ih room _

theorem decodeFixed (tcap : Nat) (bits : BitSeq) : NoBadBuffer (decodeFixed tcap bits) :=
  branch error (decodeGroups (fun _ => ok _) _ _)

theorem decodeBlock (t : Table) (tcap : Nat) (bits : BitSeq) : NoBadBuffer (decodeBlock t tcap bits) :=
  branch error (decodeGroups (fun _ => branch error (ok _)) _ _)

theorem hufDecodeLeaf (sym : Byte) (bits : BitSeq) (room : Nat) : NoBadBuffer (hufDecodeLeaf sym bits room) := by
  induction bits generalizing room with
  | nil => exact ok _
  | cons b bs ih => exact branch error (emitSym ih _ _)

theorem hufWalk (h : HufState) (t : Table) (bits : BitSeq) (cur : BitVec 9) (room : Nat) :
    NoBadBuffer (hufWalk h t bits cur room) := by
  induction bits generalizing cur room with
  | nil => exact branch (ok _) error
  | cons b bs ih => exact branch (emitSym (ih _) _ _) (ih _ _)

theorem hufDecode (h : HufState) (t : Table) (tcap : Nat) (bits : BitSeq) : NoBadBuffer (hufDecode h t tcap bits) :=
  branch (hufDecodeLeaf _ _ _) (hufWalk _ _ _ _ _)

theorem sfDecode (st : SfState) (t : Table) (bits : BitSeq) (cand : List Nat) (read : BitSeq) (room : Nat) :
    NoBadBuffer (sfDecode st t bits cand read room) := by
  induction bits generalizing cand read room with
  | nil => exact branch error (ok _)
  | cons b bs ih =>
    unfold Machine.sfDecode
    split
    · exact error
    · exact branch (emitSym (ih _ _) _ _) (ih _ _ _)

theorem lzCopy (d l : Nat) (rev : Text) (room : Nat) : NoBadBuffer (lzCopy d l rev room) := by
  induction l generalizing rev room with
  | zero => exact ok _
  | succ l ih =>
    cases room with
    | zero => exact error
    | succ room => exact ih _ room

theorem lzDecodeLoop (t : Table) (w : LzWidths) (f : Nat) (bits : BitSeq) (rev : Text) (room : Nat) :
    NoBadBuffer (lzDecodeLoop t w f bits rev room) := by
  induction f generalizing bits rev room with
  | zero => exact ok _
  | succ f ih =>
    match bits with
    | [] => exact ok _
    | true :: bs =>
      refine branch error (branch error ?_)
      split
      · next hr => exact (lzCopy _ _ _ _).passed hr
      · exact ih _ _ _
    | false :: bs =>
      refine branch error (branch error ?_)
      cases room with
      | zero => exact error
      | succ r => exact ih _ _ r

theorem lzwExpand (dict : List Text) (prev : Option Text) (k : Nat) : NoBadBuffer (lzwExpand dict prev k) := by
  unfold Machine.lzwExpand
  split
  · exact ok _
  · exact error
  · exact branch (ok _) error

theorem lzwReplay (ks : List Nat) (dict : List Text) (prev : Option Text) (room : Nat) :
    NoBadBuffer (lzwReplay ks dict prev room) := by
  induction ks generalizing dict prev room with
  | nil => exact ok _
  | cons k ks ih =>
    unfold Machine.lzwReplay
    split
    · next hr => exact (lzwExpand _ _ _).passed hr
    refine branch error ?_
    dsimp only
    split
    · next hr => exact (ih _ _ _).passed hr
    · exact ok _

theorem lzwDecode (t : Table) (bs tcap : Nat) (bits : BitSeq) : NoBadBuffer (lzwDecode t bs tcap bits) :=
  branch (branch error (ok _)) (branch error (lzwReplay _ _ _ _))

theorem arNarrow (S lo hi : Nat) (iv : Interval) : NoBadBuffer (arNarrow S lo hi iv) :=
  branch error (ok _)

theorem arDecode (st : ArState) (t : Table) (eom : Byte) (room : Nat) (iv : Interval) (fd : BitFeed) :
    NoBadBuffer (arDecode st t eom room iv fd) := by
  induction room generalizing iv fd with
  | zero =>
    unfold Machine.arDecode
    split <;> exact error
  | succ r ih =>
    unfold Machine.arDecode
    split
    · exact error
    refine branch (ok _) ?_
    split
    · next hr => exact (arNarrow _ _ _ _).passed hr
    dsimp only
    split
    · next hr => exact (ih _ _).passed hr
    · exact ok _

theorem encSymbols (st : ArState) (S : Nat) (idx : List Nat) (iv : Interval) (p : Nat) :
    NoBadBuffer (encSymbols st S idx iv p) := by
  induction idx generalizing iv p with
  | nil => exact ok _
  | cons k ks ih =>
    unfold Machine.encSymbols
    split
    · next hr => exact (arNarrow _ _ _ _).passed hr
    dsimp only
    split
    · next hr => exact (ih _ _).passed hr
    · exact ok _

theorem arEncode (st : ArState) (S : Nat) (idx : List Nat) : NoBadBuffer (arEncode st S idx) := by
  unfold Machine.arEncode
  split
  · next hr => exact (encSymbols _ _ _ _ _).passed hr
  · exact ok _

/-! ### What a rule does after its buffer fields -/

theorem appendBits (a : BufIdx) (bits : BitSeq) (s : State) : NoBadBuffer (appendBits a bits s) := branch error (ok _)

theorem storeBits (a : BufIdx) (out : BitSeq) (s : State) : NoBadBuffer (storeBits a out s) := branch error (ok _)

theorem storeText {out : Except Err Text} (h : NoBadBuffer out) (t : BufIdx) (s : State) :
    NoBadBuffer (storeText t out s) := by
  cases out with
  | ok x => exact ok _
  | error e => exact h.passed rfl

theorem withTable {s : State} {k : Except Err State} (h : NoBadBuffer k) : NoBadBuffer (withTable s k) := branch h error

theorem withEom {s : State} {k : Except Err State} (h : NoBadBuffer k) : NoBadBuffer (withEom s k) := branch h error

theorem withState {v : Bool} {k : Except Err State} (h : NoBadBuffer k) : NoBadBuffer (withState v k) := branch h error

theorem withLookup {s : State} {msg : Text} {k : List Nat → Except Err State} (h : ∀ idx, NoBadBuffer (k idx)) :
    NoBadBuffer (withLookup s msg k) := by
  unfold Machine.withLookup
  split
  · exact h _
  · exact error

theorem regWrite (s : State) (v : Word64) (r : Reg) : NoBadBuffer (regWrite s v r) := by
  cases r
  case eom | valid | lz77Window | lz77Lookahead | lzwBlocksize => exact ok _
  all_goals exact error

end NoBadBuffer

/-! ### The check of the fields -/

/-- The rule raises ILLEGAL(BAD_BUFFER) exactly when its fields are not all right. -/
def ChecksFields (fieldsOk : Bool) (r : Except Err State) : Prop :=
  (fieldsOk = false → r = .error .badBuffer) ∧ (fieldsOk = true → NoBadBuffer r)

namespace ChecksFields

variable {s : State} {a b : BufIdx} {k : Except Err State}

theorem none (h : NoBadBuffer k) : ChecksFields true k := ⟨nofun, fun _ => h⟩

theorem withBs {o : Bool} (h : ChecksFields o k) :
    ChecksFields (decide (a.toNat < s.cap.nbs) && o) (withBs s a k) := by
  by_cases ha : a.toNat < s.cap.nbs
  · simpa [ha] using h
  · simp [ChecksFields, Machine.withBs, ha]

theorem withTx {o : Bool} (h : ChecksFields o k) :
    ChecksFields (decide (a.toNat < s.cap.ntb) && o) (withTx s a k) := by
  by_cases ha : a.toNat < s.cap.ntb
  · simpa [ha] using h
  · simp [ChecksFields, Machine.withTx, ha]

section
variable (h : NoBadBuffer k)
include h

/-! The field kinds of R86's rows, with `Instr.wellFormed` written out. -/

theorem stream : ChecksFields ((decide (a.toNat < s.cap.nbs) && true) && true) (Machine.withBs s a k) := by
  simpa using withBs (none h)

theorem text : ChecksFields (true && (decide (a.toNat < s.cap.ntb) && true)) (Machine.withTx s a k) := by
  simpa using withTx (none h)

theorem streamStream : ChecksFields
    ((decide (a.toNat < s.cap.nbs) && (decide (b.toNat < s.cap.nbs) && true)) && true)
    (Machine.withBs s a (Machine.withBs s b k)) := by
  simpa using withBs (withBs (none h))

theorem streamText : ChecksFields
    ((decide (a.toNat < s.cap.nbs) && true) && (decide (b.toNat < s.cap.ntb) && true))
    (Machine.withBs s a (Machine.withTx s b k)) := by
  simpa using withBs (withTx (none h))

theorem textStream : ChecksFields
    ((decide (b.toNat < s.cap.nbs) && true) && (decide (a.toNat < s.cap.ntb) && true))
    (Machine.withTx s a (Machine.withBs s b k)) := by
  simpa [Bool.and_comm] using withTx (withBs (none h))

end

end ChecksFields

theorem ruleOf_checksFields (i : Instr) (s : State) : ChecksFields (i.wellFormed s.cap) (ruleOf i s) := by
  cases i
  case nop | avgFixed => exact .none (.ok _)
  case regRd =>
    refine .none ?_
    unfold ruleOf ruleRegRd
    dsimp only
    split
    · exact .error
    · exact .ok _
  case regWr =>
    refine .none ?_
    unfold ruleOf ruleRegWr
    dsimp only
    split
    · exact .error
    · exact .regWrite _ _ _
  case bsClear | bsLen => exact .stream (.ok _)
  case bsAppb | bsAppu8 | bsAppu16 | bsAppu32 | bsAppu64 => exact .stream (.appendBits _ _ _)
  case bsPop | bsSet => exact .stream (.branch .error (.ok _))
  case bsGet =>
    refine .stream ?_
    split
    · exact .error
    · exact .ok _
  case bsCat => exact .streamStream (.appendBits _ _ _)
  case bsAppt => exact .streamText (.appendBits _ _ _)
  case bsRender => exact .textStream (.branch .error (.ok _))
  case txClear | txLen => exact .text (.ok _)
  case txPush | txSet => exact .text (.branch .error (.ok _))
  case txGet =>
    refine .text ?_
    split
    · exact .error
    · exact .ok _
  case stStage =>
    refine .none ?_
    unfold ruleOf ruleStStage
    dsimp only
    split
    · exact .ok _
    · exact .error
  case stBuild => exact .none (.branch .error (.branch .error (.branch .error (.ok _))))
  case stSize | avgBlock | prepHuf | prepSf | prepArith => exact .none (.withTable (.ok _))
  case stSymat | stProbat => exact .none (.withTable (.branch .error (.ok _)))
  case stIndexof =>
    refine .none (.withTable ?_)
    split
    · exact .error
    · exact .ok _
  case avgHuf | avgSf => exact .none (.withTable (.withState (.ok _)))
  case encFixed => exact .streamText (.storeBits _ _ _)
  case encBlock | encHuf | encLz77 => exact .streamText (.withTable (.withLookup fun _ => .storeBits _ _ _))
  case encSf => exact .streamText (.withTable (.withLookup fun _ => .branch .error (.storeBits _ _ _)))
  case encArith =>
    refine .streamText (.withTable (.withEom (.withLookup fun _ => ?_)))
    split
    · next hr => exact (NoBadBuffer.arEncode _ _ _).passed hr
    · exact .storeBits _ _ _
  case encLzw => exact .streamText (.withTable (.withEom (.withLookup fun _ => .storeBits _ _ _)))
  case decFixed => exact .textStream (.storeText (.decodeFixed _ _) _ _)
  case decBlock => exact .textStream (.withTable (.storeText (.decodeBlock _ _ _) _ _))
  case decHuf => exact .textStream (.withTable (.withState (.storeText (.hufDecode _ _ _ _) _ _)))
  case decSf => exact .textStream (.withTable (.withState (.storeText (.sfDecode _ _ _ _ _ _) _ _)))
  case decArith => exact .textStream (.withTable (.withEom (.withState (.storeText (.arDecode _ _ _ _ _ _) _ _))))
  case decLz77 => exact .textStream (.withTable (.withState (.storeText (.lzDecodeLoop _ _ _ _ _ _) _ _)))
  case decLzw =>
    refine .textStream (.withTable (.withEom (.withState ?_)))
    split
    · next hr => exact (NoBadBuffer.lzwDecode _ _ _ _).passed hr
    · exact .ok _

theorem errDetail_eq_badBuffer_iff {e : Err} : errDetail e = 0x41 ↔ e = .badBuffer := by
  cases e <;> decide

/-- Settles O17: the rule's answer is BAD_BUFFER exactly when a field is wrong, and no other error has its detail. -/
theorem missingBufferIsReportedFirst : Obligations.MissingBufferIsReportedFirst := by
  intro i s
  obtain ⟨hmissing, hpresent⟩ := ruleOf_checksFields i s
  constructor
  · intro hwf
    rw [exec_eq_finish, hmissing hwf]
    exact ⟨_, finish_error s .badBuffer, completedWith_complete .badBuffer s⟩
  · intro hwf t h hdetail
    rw [exec_eq_finish] at h
    obtain ⟨s', -, rfl⟩ | ⟨e, he, rfl⟩ := finish_cases h
    · exact absurd hdetail (by decide : (0 : BitVec 8) ≠ 0x41)
    · exact hpresent hwf (he.trans (congrArg _ (errDetail_eq_badBuffer_iff.mp hdetail)))

end Sys2Proof.Machine
end

section
/-! PROOFS. Control and registers (40_control.md R100 to R102): a register number names its register, a reserved one none;
what a completed REG_RD or REG_WR of a number leaves is then `regValue` or `regWrite` of its register. -/

namespace Sys2Proof.Machine

/-! ### The register numbers (R34) -/

/-- The number of a register. -/
def Reg.number : Reg → Word64
  | .id => 0x00
  | .eom => 0x01
  | .valid => 0x02
  | .lz77Window => 0x03
  | .lz77Lookahead => 0x04
  | .lzwBlocksize => 0x05
  | .lzwDictsize => 0x06
  | .stValid => 0x08
  | .stN => 0x09
  | .stSum => 0x0A
  | .cmdCount => 0x0B
  | .capNbs => 0x10
  | .capNtb => 0x11
  | .capBcap => 0x12
  | .capTcap => 0x13
  | .capNsym => 0x14
  | .capP => 0x15

/-- The registers that REG_WR does not reach (R102). -/
def readOnlyRegs : List Reg :=
  [.id, .lzwDictsize, .stValid, .stN, .stSum, .cmdCount, .capNbs, .capNtb, .capBcap, .capTcap, .capNsym, .capP]

/-- Every register, in the order of the numbers. -/
def allRegs : List Reg :=
  [.id, .eom, .valid, .lz77Window, .lz77Lookahead, .lzwBlocksize, .lzwDictsize, .stValid, .stN, .stSum, .cmdCount,
    .capNbs, .capNtb, .capBcap, .capTcap, .capNsym, .capP]

theorem regOfNumber_number (r : Reg) : regOfNumber r.number = some r := by cases r <;> rfl

/-- The reserved numbers (R34) name no register. -/
theorem regOfNumber_reserved {w : Word64} (h : w ∉ allRegs.map Reg.number) : regOfNumber w = none := by
  simp only [allRegs, List.map_cons, List.map_nil, Reg.number, List.mem_cons, List.not_mem_nil, or_false, not_or] at h
  simp only [regOfNumber, h, if_false]

theorem regWrite_readOnly (s : State) (v : Word64) {r : Reg} (h : r ∈ readOnlyRegs) :
    regWrite s v r = .error .readOnly := by
  cases r
  case eom | valid | lz77Window | lz77Lookahead | lzwBlocksize => exact absurd h (by decide)
  all_goals rfl

/-! ### The words read (R41, R43) -/

theorem flagBit_setWidth (b : Bool) : (flagBit b).setWidth 64 = if b then 1 else 0 := by cases b <;> rfl

/-- Bits 0 and 1 of VALID read 1 and bits 6:2 the stored bits; the rest read 0. -/
theorem validWord_bits (v : Valid) :
    (validWord v).getLsbD 0 = true ∧ (validWord v).getLsbD 1 = true ∧ (validWord v).getLsbD 2 = v.huf ∧
    (validWord v).getLsbD 3 = v.sf ∧ (validWord v).getLsbD 4 = v.arith ∧ (validWord v).getLsbD 5 = v.lz77 ∧
    (validWord v).getLsbD 6 = v.lzw ∧ (validWord v).extractLsb' 7 57 = 0 := by
  refine ⟨?_, ?_, ?_, ?_, ?_, ?_, ?_, ?_⟩
  case refine_8 =>
    rw [validWord, BitVec.extractLsb'_setWidth_of_le (by decide)]
    simp [↓BitVec.extractLsb'_append_eq_ite]
  all_goals
    rw [validWord, BitVec.getLsbD_setWidth]
    simp [↓BitVec.getLsbD_append, flagBit]

/-! ### What a register access leaves -/

section
variable {s : State} {r : Reg}

theorem resultsOnly_complete (s : State) (r0 r1 : Word64) :
    ResultsOnly s (complete none { s with res0 := r0, res1 := r1 }) := by
  constructor
  case ok =>
    constructor
    case anyErr => exact Bool.or_false _
    all_goals rfl
  case host | tables | config | derived => constructor <;> rfl
  case mem => rfl

theorem exec_regRd_number (h : r.number = s.lArg0) :
    exec .regRd s = .next (complete none { s with res0 := regValue s r }) := by
  rw [exec_eq_finish, ruleOf, ruleRegRd, ← h, regOfNumber_number, finish_ok]

theorem exec_regRd_reserved (h : s.lArg0 ∉ allRegs.map Reg.number) :
    exec .regRd s = .next (complete (some .badRegister) s) := by
  rw [exec_eq_finish, ruleOf, ruleRegRd, regOfNumber_reserved h, finish_error]

theorem exec_regWr_number (h : r.number = s.lArg0) : exec .regWr s = finish s (regWrite s s.lArg1 r) := by
  rw [exec_eq_finish, ruleOf, ruleRegWr, ← h, regOfNumber_number]

theorem exec_regWr_reserved (h : s.lArg0 ∉ allRegs.map Reg.number) :
    exec .regWr s = .next (complete (some .badRegister) s) := by
  rw [exec_eq_finish, ruleOf, ruleRegWr, regOfNumber_reserved h, finish_error]

end

/-! ### The statements -/

/-- Settles O25: the statement's table pairs the registers' numbers with their values, and the numbers it lists last are
all the numbers there are. -/
theorem nopAndRegisterReadsComplete : Obligations.NopAndRegisterReadsComplete := by
  refine ⟨fun s => ?_, fun s v hv => ?_, fun s hs => ?_, fun s hs => ?_⟩
  · exact ⟨_, rfl, resultsOnly_complete s _ _, rfl, rfl⟩
  · rw [← flagBit_setWidth] at hv
    obtain ⟨r, -, hr⟩ := List.mem_map (l := allRegs.filter (· ≠ .valid)) (f := fun r => (r.number, regValue s r)).mp hv
    obtain ⟨hnumber, rfl⟩ := Prod.mk.inj hr
    exact ⟨_, exec_regRd_number hnumber, resultsOnly_complete s _ _, rfl, rfl⟩
  · exact ⟨_, exec_regRd_number (r := .valid) hs.symm, resultsOnly_complete s _ _, rfl, validWord_bits s.valid⟩
  · exact ⟨_, exec_regRd_reserved hs, completedWith_complete _ s⟩

/-- Settles O26: a writable register's number runs its write, a read-only one's READ_ONLY, and any other names none. -/
theorem registerWritesKeepTheirBits : Obligations.RegisterWritesKeepTheirBits := by
  intro s
  refine ⟨fun h => exec_regWr_number (r := .eom) h.symm, fun h => exec_regWr_number (r := .valid) h.symm,
    fun h => exec_regWr_number (r := .lz77Window) h.symm, fun h => exec_regWr_number (r := .lz77Lookahead) h.symm,
    fun h => exec_regWr_number (r := .lzwBlocksize) h.symm, fun h => ?_, fun h => ?_⟩
  · obtain ⟨r, hr, hnumber⟩ := List.mem_map (l := readOnlyRegs) (f := Reg.number).mp h
    have hexec := exec_regWr_number hnumber
    rw [regWrite_readOnly _ _ hr] at hexec
    exact ⟨_, hexec, completedWith_complete _ s⟩
  · exact ⟨_, exec_regWr_reserved h, completedWith_complete _ s⟩

end Sys2Proof.Machine
end

section
/-! PROOFS. The symbol table (41_symbol_table.md R110 to R115): the entries of the staged and the committed arrays, and
each command's rule by the cases of its tests, completed by the rules for how a command ends. -/

namespace Sys2Proof.Machine

/-! ### How a command ends (60_exceptions.md R303, R313) -/

theorem completedOk_complete {s u : State} (hstatus : u.status = s.status) (hcmd : u.lCmd = s.lCmd)
    (hcount : u.cmdCount = s.cmdCount) : CompletedOk s (complete none u) where
  err := rfl
  detail := rfl
  busy := rfl
  ovr := by rw [complete_ovr, hstatus]
  anyErr := by rw [complete_anyErr, hstatus, Option.isSome_none, Bool.or_false]
  lastOp := by rw [complete_lastOp, hcmd]
  cmdCount := by rw [complete_cmdCount, hcount]

section
variable {i : Instr} {s : State}

theorem exec_of_ruleOf_ok {u : State} (h : ruleOf i s = .ok u) : exec i s = .next (complete none u) := by
  rw [exec_eq_finish, h, finish_ok]

theorem exec_completes_with {e : Err} (h : ruleOf i s = .error e) : ∃ t, exec i s = .next t ∧ CompletedWith e s t :=
  ⟨_, by rw [exec_eq_finish, h, finish_error], completedWith_complete e s⟩

theorem exec_returns {r0 r1 : Word64} (h : ruleOf i s = .ok { s with res0 := r0, res1 := r1 }) :
    ∃ t, exec i s = .next t ∧ ResultsOnly s t ∧ t.res0 = r0 ∧ t.res1 = r1 :=
  ⟨_, exec_of_ruleOf_ok h, resultsOnly_complete s r0 r1, rfl, rfl⟩

end

theorem withTable_neg {s : State} (h : s.table.valid = false) (k : Except Err State) : withTable s k = .error .noTable :=
  if_neg (by simp [h])

/-! ### The entries of the table (R16, R32, R111) -/

theorem copyFirst_getElem {α : Type} {m k j : Nat} (new old : Vector α m) (hk : k ≤ m) (hj : j < m) :
    (copyFirst k new old)[j] = if j < k then new[j] else old[j] := by
  simp only [copyFirst, Vector.getElem_mk, List.getElem_toArray, List.getElem_append, List.length_take,
    Vector.length_toList, Nat.min_eq_left hk]
  split
  · simp
  · simp [Nat.add_sub_cancel' (Nat.le_of_not_lt ‹_›)]

namespace Table

variable {t : Table} {i : Nat}

theorem lt_syms_length_iff : i < t.syms.length ↔ i < t.size ∧ i < 256 := by
  simp [syms]

theorem syms_getElem (h : i < t.syms.length) : t.syms[i] = t.sym[i]'(lt_syms_length_iff.mp h).2 := by
  simp [syms]

theorem symAt_of_lt (hsize : i < t.size) (h : i < 256) : t.symAt i = t.sym[i] := by
  have hi : i < t.syms.length := lt_syms_length_iff.mpr ⟨hsize, h⟩
  rw [symAt, List.getD_eq_getElem _ _ hi, syms_getElem]

theorem weightAt_of_lt (hsize : i < t.size) (h : i < 256) : t.weightAt i = (t.w[i]).toNat := by
  have hi : i < t.weights.length := by simpa [weights] using ⟨hsize, h⟩
  rw [weightAt, List.getD_eq_getElem _ _ hi]
  simp [weights]

theorem indexOf_eq_some {c : Byte} (hsize : i < t.size) (h : i < 256) (hsym : t.sym[i] = c)
    (hleast : ∀ (j : Nat) (hj : j < i), t.sym[j]'(Nat.lt_trans hj h) ≠ c) : t.indexOf c = some i := by
  refine indexOf_some_iff.mpr ⟨lt_syms_length_iff.mpr ⟨hsize, h⟩, ?_, fun j hj => ?_⟩
  · rwa [syms_getElem]
  · rw [syms_getElem]
    exact hleast j hj

theorem indexOf_eq_none {c : Byte} (h : ∀ (j : Nat) (h : j < 256), j < t.size → t.sym[j] ≠ c) :
    t.indexOf c = none := by
  refine indexOf_none_iff.mpr fun hc => ?_
  obtain ⟨j, hj, hsym⟩ := List.getElem_of_mem hc
  obtain ⟨hsize, hlt⟩ := lt_syms_length_iff.mp hj
  exact h j hlt hsize ((syms_getElem hj).symm.trans hsym)

end Table

/-! ### ST_STAGE (R110) -/

/-- Settles O27: the index test decides, and the write is one `Vector.set` in each array. -/
theorem stageWritesOneEntry : Obligations.StageWritesOneEntry := by
  intro s
  constructor
  · intro hlt
    refine ⟨_, exec_of_ruleOf_ok (dif_pos hlt), completedOk_complete rfl rfl rfl, ?host, ⟨rfl, rfl⟩, rfl, rfl, ?config,
      ?derived, fun j hj => ?entries⟩
    case host | config | derived => constructor <;> rfl
    case entries =>
      simp only [complete_staging, Vector.getElem_set, arg0Nat, arg1Byte, arg2Weight, eq_comm (a := j), and_self]
  · intro hge
    exact exec_completes_with (dif_neg (Nat.not_lt.mpr hge))

/-! ### ST_BUILD (R111) -/

section
variable {s : State}

theorem ruleStBuild_of_ne (h : arg0Nat s ≠ arg1Nat s) : ruleStBuild s = .error .lengthMismatch := if_pos h

theorem ruleStBuild_of_many (heq : arg0Nat s = arg1Nat s) (h : 256 < arg0Nat s) : ruleStBuild s = .error .tooMany := by
  rw [ruleStBuild, if_neg (not_not.mpr heq), if_pos h]

theorem ruleStBuild_of_outOfTolerance (heq : arg0Nat s = arg1Nat s) (hle : arg0Nat s ≤ 256)
    (h : sumOutOfTolerance (stagedSum s.staging (arg0Nat s)) = true) : ruleStBuild s = .error .sumTolerance := by
  rw [ruleStBuild, if_neg (not_not.mpr heq), if_neg (Nat.not_lt.mpr hle), if_pos h]

theorem ruleStBuild_of_withinTolerance (heq : arg0Nat s = arg1Nat s) (hle : arg0Nat s ≤ 256)
    (h : sumOutOfTolerance (stagedSum s.staging (arg0Nat s)) = false) :
    ruleStBuild s = .ok { s with table := builtTable s.staging s.table (arg0Nat s)
                                 valid := { s.valid with huf := false, sf := false, arith := false } } := by
  rw [ruleStBuild, if_neg (not_not.mpr heq), if_neg (Nat.not_lt.mpr hle), if_neg (Bool.eq_false_iff.mp h)]

end

/-- A sum within the tolerance fits ST_SUM. -/
theorem builtTable_sum_toNat (st : Staging) (old : Table) {na : Nat} (h : sumOutOfTolerance (stagedSum st na) = false) :
    (builtTable st old na).sum.toNat = stagedSum st na := by
  obtain ⟨-, hhi⟩ := (sumOutOfTolerance_eq_false_iff _).mp h
  simp only [builtTable, BitVec.toNat_ofNat]
  omega

/-- Settles O28: the three tests in R111's order, and the entries of the table that is left. -/
theorem buildCommitsTheTableOrReportsTheFirstError : Obligations.BuildCommitsTheTableOrReportsTheFirstError := by
  rintro s S rfl
  have hcounts (h : s.lArg0 = s.lArg1) : arg0Nat s = arg1Nat s := congrArg BitVec.toNat h
  refine ⟨fun hne => ?_, fun heq hmany => ?_, fun heq hle hbad => ?_, fun heq hle hgood => ?_⟩
  · exact exec_completes_with (ruleStBuild_of_ne fun h => hne (BitVec.eq_of_toNat_eq h))
  · exact exec_completes_with (ruleStBuild_of_many (hcounts heq) hmany)
  · exact exec_completes_with (ruleStBuild_of_outOfTolerance (hcounts heq) hle (decide_eq_true hbad))
  · have htol : sumOutOfTolerance (stagedSum s.staging (arg0Nat s)) = false := decide_eq_false (Nat.not_lt.mpr hgood)
    refine ⟨_, exec_of_ruleOf_ok (ruleStBuild_of_withinTolerance (hcounts heq) hle htol), completedOk_complete rfl rfl rfl,
      ?host, ⟨rfl, rfl⟩, rfl, rfl, ?config, rfl, rfl, builtTable_size _ _ hle, builtTable_sum_toNat _ _ htol,
      fun j hj => ?entries⟩
    case host | config => constructor <;> rfl
    case entries => exact ⟨copyFirst_getElem _ _ hle hj, copyFirst_getElem _ _ hle hj⟩

/-! ### The table reads (R112 to R115) -/

section
variable {s : State} (hvalid : s.table.valid = true)
include hvalid

theorem ruleStSize_of_valid : ruleStSize s = .ok { s with res0 := s.table.n.setWidth 64 } := withTable_pos hvalid _

theorem ruleStSymat_of_lt (hsize : arg0Nat s < s.table.size) (h : arg0Nat s < 256) :
    ruleStSymat s = .ok { s with res0 := (s.table.sym[arg0Nat s]).setWidth 64 } := by
  rw [ruleStSymat, withTable_pos hvalid, if_neg (Nat.not_le.mpr hsize), Table.symAt_of_lt hsize h]

theorem ruleStSymat_of_ge (h : s.table.size ≤ arg0Nat s) : ruleStSymat s = .error .index := by
  rw [ruleStSymat, withTable_pos hvalid, if_pos h]

theorem ruleStProbat_of_lt (hsize : arg0Nat s < s.table.size) (h : arg0Nat s < 256) :
    ruleStProbat s = .ok { s with res0 := (s.table.w[arg0Nat s]).setWidth 64, res1 := s.table.sum.setWidth 64 } := by
  rw [ruleStProbat, withTable_pos hvalid, if_neg (Nat.not_le.mpr hsize), Table.weightAt_of_lt hsize h,
    BitVec.ofNat_toNat]

theorem ruleStProbat_of_ge (h : s.table.size ≤ arg0Nat s) : ruleStProbat s = .error .index := by
  rw [ruleStProbat, withTable_pos hvalid, if_pos h]

theorem ruleStIndexof_of_some {k : Nat} (h : s.table.indexOf (arg0Byte s) = some k) :
    ruleStIndexof s = .ok { s with res0 := BitVec.ofNat 64 k } := by
  rw [ruleStIndexof, withTable_pos hvalid, h]

theorem ruleStIndexof_of_none (h : s.table.indexOf (arg0Byte s) = none) : ruleStIndexof s = .error .symbolAbsent := by
  rw [ruleStIndexof, withTable_pos hvalid, h]

end

/-- Settles O29: the table test, then the index test; an index below both ST_N and 256 reads its entry. -/
theorem tableReadsReturnItsEntries : Obligations.TableReadsReturnItsEntries := by
  intro s
  refine ⟨fun hinvalid => ⟨?_, ?_, ?_⟩, fun hvalid => ?_, fun hlt hvalid hsize => ⟨?_, ?_⟩, fun hvalid hge => ⟨?_, ?_⟩⟩
  · exact exec_completes_with (withTable_neg hinvalid _)
  · exact exec_completes_with (withTable_neg hinvalid _)
  · exact exec_completes_with (withTable_neg hinvalid _)
  · exact exec_returns (ruleStSize_of_valid hvalid)
  · exact exec_returns (ruleStSymat_of_lt hvalid hsize hlt)
  · exact exec_returns (ruleStProbat_of_lt hvalid hsize hlt)
  · exact exec_completes_with (ruleStSymat_of_ge hvalid hge)
  · exact exec_completes_with (ruleStProbat_of_ge hvalid hge)

/-- Settles O30: `indexOf` is the least index below ST_N that holds the symbol; indices at or beyond 256 are no entries. -/
theorem indexOfReturnsTheLeastIndex : Obligations.IndexOfReturnsTheLeastIndex := by
  intro s _
  refine ⟨fun hinvalid => ?_, fun k hk hvalid hsize hsym hleast => ?_, fun hvalid habsent => ?_⟩
  · exact exec_completes_with (withTable_neg hinvalid _)
  · exact exec_returns (ruleStIndexof_of_some hvalid (Table.indexOf_eq_some hsize hk hsym hleast))
  · exact exec_completes_with (ruleStIndexof_of_none hvalid (Table.indexOf_eq_none habsent))

end Sys2Proof.Machine
end

section
/-! PROOFS. The bit-stream commands (42_bitstream.md R130 to R143): the commands that add bits are one append, refused
whole when it does not fit, and the commands of a container are a run of such appends. -/

namespace Sys2Proof.Machine

/-! ### A buffer index below the count names a buffer of the memory (R29, R30) -/

theorem lt_bs_length {p : Params} {m : Memory} {a : BufIdx} (h : Memory.wf p m) (ha : a.toNat < p.nbs) :
    a.toNat < m.bs.length := h.1 ▸ ha

theorem lt_tx_length {p : Params} {m : Memory} {a : BufIdx} (h : Memory.wf p m) (ha : a.toNat < p.ntb) :
    a.toNat < m.tx.length := h.2.1 ▸ ha

/-! ### A completion that writes one buffer (60_exceptions.md R303, R313) -/

theorem oneStreamWritten_complete (s : State) (a : BufIdx) (v : BitSeq) :
    OneStreamWritten a s (complete none (s.putBs a v)) := by
  constructor
  case ok => exact completedOk_complete rfl rfl rfl
  case streams => exact fun b hb => getBs_setBs_ne s.mem a b v (Ne.symm (by simpa using hb))
  case texts => rfl
  all_goals constructor <;> rfl

theorem oneTextWritten_complete (s : State) (a : BufIdx) (v : Text) :
    OneTextWritten a s (complete none (s.putTx a v)) := by
  constructor
  case ok => exact completedOk_complete rfl rfl rfl
  case texts => exact fun b hb => getTx_setTx_ne s.mem a b v (Ne.symm (by simpa using hb))
  case streams => rfl
  all_goals constructor <;> rfl

section
variable {i : Instr} {a : BufIdx} {s : State}

theorem exec_writes_stream {v : BitSeq} (ha : a.toNat < s.mem.bs.length) (h : ruleOf i s = .ok (s.putBs a v)) :
    ∃ t, exec i s = .next t ∧ OneStreamWritten a s t ∧ t.mem.getBs a = v :=
  ⟨_, exec_of_ruleOf_ok h, oneStreamWritten_complete s a v, getBs_setBs_same s.mem a v ha⟩

theorem exec_writes_text {v : Text} (ha : a.toNat < s.mem.tx.length) (h : ruleOf i s = .ok (s.putTx a v)) :
    ∃ t, exec i s = .next t ∧ OneTextWritten a s t ∧ t.mem.getTx a = v :=
  ⟨_, exec_of_ruleOf_ok h, oneTextWritten_complete s a v, getTx_setTx_same s.mem a v ha⟩

/-- A command that appends bits adds them all, or reports BS_FULL and adds none (R61). -/
theorem exec_appends {new : BitSeq} (ha : a.toNat < s.mem.bs.length) (h : ruleOf i s = appendBits a new s) :
    ((s.mem.getBs a).length + new.length ≤ s.cap.bcap →
      ∃ t, exec i s = .next t ∧ OneStreamWritten a s t ∧ t.mem.getBs a = s.mem.getBs a ++ new) ∧
    (s.cap.bcap < (s.mem.getBs a).length + new.length → ∃ t, exec i s = .next t ∧ CompletedWith .bsFull s t) := by
  constructor
  · intro hfits
    exact exec_writes_stream ha (h.trans ((appendBits_ok_iff ..).mpr ⟨hfits, rfl⟩))
  · intro hfull
    exact exec_completes_with (h.trans ((appendBits_error_iff ..).mpr ⟨hfull, rfl⟩))

end

/-! ### The bits of an operand (00_scope.md R10) -/

theorem uBits_mod_two_pow (v w : Nat) : uBits (v % 2 ^ w) w = uBits v w := by
  refine List.ext_getElem (by simp) fun k hk _ => ?_
  have hlt : w - 1 - k < w := by
    rw [uBits_length] at hk
    omega
  rw [getElem_uBits, getElem_uBits, Nat.testBit_mod_two_pow, decide_eq_true hlt, Bool.true_and]

/-- UBits spelled bit by bit, most significant first. -/
theorem uBits_toNat {n : Nat} (x : BitVec n) (w : Nat) :
    uBits x.toNat w = (List.range w).map (fun k => x.getLsbD (w - 1 - k)) := by
  refine List.ext_getElem (by simp) fun k hk _ => ?_
  rw [getElem_uBits, List.getElem_map, List.getElem_range, BitVec.testBit_toNat]

theorem uBits_arg0Low (s : State) (w : Nat) : uBits (arg0Low w s) w = uBits s.lArg0.toNat w := by
  rw [arg0Low, BitVec.extractLsb'_toNat, Nat.shiftRight_zero, uBits_mod_two_pow]

theorem textBits_eq (t : Text) :
    textBits t = t.flatMap (fun c => (List.range 8).map (fun k => c.getLsbD (7 - k))) :=
  List.flatMap_congr fun c _ => uBits_toNat c 8

/-! ### The commands that append (R131 to R137) -/

section
variable {a b : BufIdx} {s : State} (ha : a.toNat < s.cap.nbs)
include ha

theorem ruleBsAppb_eq : ruleBsAppb a s = appendBits a [s.lArg0.getLsbD 0] s := withBs_pos ha _

theorem ruleBsAppu_eq (w : Nat) : ruleBsAppu w a s = appendBits a (uBits s.lArg0.toNat w) s := by
  rw [ruleBsAppu, withBs_pos ha, uBits_arg0Low]

theorem ruleOf_appendInstr (w : AppWidth) :
    ruleOf (appendInstr a w) s = appendBits a (uBits s.lArg0.toNat (widthBits w)) s := by
  cases w <;> exact ruleBsAppu_eq ha _

theorem ruleBsCat_eq (hb : b.toNat < s.cap.nbs) : ruleBsCat a b s = appendBits a (s.mem.getBs b) s := by
  rw [ruleBsCat, withBs_pos ha, withBs_pos hb]

theorem ruleBsAppt_eq (hb : b.toNat < s.cap.ntb) : ruleBsAppt a b s = appendBits a (textBits (s.mem.getTx b)) s := by
  rw [ruleBsAppt, withBs_pos ha, withTx_pos hb]

end

/-- Settles O31: each command is an append, and the bits of UBits are those of ARG0 from the most significant on. -/
theorem typedAppendsAreBigEndian : Obligations.TypedAppendsAreBigEndian := by
  intro s a i new hwf ha hi
  refine exec_appends (lt_bs_length hwf ha) ?_
  have happu (w : Nat) :
      ruleBsAppu w a s = appendBits a ((List.range w).map (fun k => s.lArg0.getLsbD (w - 1 - k))) s := by
    rw [ruleBsAppu_eq ha, uBits_toNat]
  simp only [List.mem_cons, List.not_mem_nil, or_false, Prod.mk.injEq] at hi
  obtain ⟨rfl, rfl⟩ | ⟨rfl, rfl⟩ | ⟨rfl, rfl⟩ | ⟨rfl, rfl⟩ | ⟨rfl, rfl⟩ := hi
  · exact ruleBsAppb_eq ha
  · exact happu 8
  · exact happu 16
  · exact happu 32
  · exact happu 64

/-- Settles O32: both commands are an append of what the source holds in the state they begin in (R68). -/
theorem concatenationsAppendTheSource : Obligations.ConcatenationsAppendTheSource := by
  intro s a b hwf ha
  constructor
  · intro hb
    exact exec_appends (lt_bs_length hwf ha) (ruleBsCat_eq ha hb)
  · intro hb
    rw [← textBits_eq, ← textBits_length]
    exact exec_appends (lt_bs_length hwf ha) (ruleBsAppt_eq ha hb)

/-! ### Edits and reads (R130, R138 to R141) -/

section
variable {a : BufIdx} {s : State} (ha : a.toNat < s.cap.nbs)
include ha

theorem ruleBsPop_of_append {x : BitSeq} {b : Bool} (h : s.mem.getBs a = x ++ [b]) :
    ruleBsPop a s = .ok (s.putBs a x) := by
  rw [ruleBsPop, withBs_pos ha, h, if_neg (by simp), List.dropLast_concat]

theorem ruleBsPop_of_nil (h : s.mem.getBs a = []) : ruleBsPop a s = .error .empty := by
  rw [ruleBsPop, withBs_pos ha, if_pos (List.length_eq_zero_iff.mpr h)]

theorem ruleBsSet_of_lt (h : arg0Nat s < (s.mem.getBs a).length) :
    ruleBsSet a s = .ok (s.putBs a ((s.mem.getBs a).set (arg0Nat s) (arg1Bit s))) := by
  rw [ruleBsSet, withBs_pos ha, if_neg (Nat.not_le.mpr h)]

theorem ruleBsSet_of_ge (h : (s.mem.getBs a).length ≤ arg0Nat s) : ruleBsSet a s = .error .index := by
  rw [ruleBsSet, withBs_pos ha, if_pos h]

theorem ruleBsGet_of_some {b : Bool} (h : (s.mem.getBs a)[arg0Nat s]? = some b) :
    ruleBsGet a s = .ok { s with res0 := (flagBit b).setWidth 64 } := by
  rw [ruleBsGet, withBs_pos ha, h]

theorem ruleBsGet_of_ge (h : (s.mem.getBs a).length ≤ arg0Nat s) : ruleBsGet a s = .error .index := by
  rw [ruleBsGet, withBs_pos ha, List.getElem?_eq_none h]

end

theorem flagBit_setWidth_toNat (b : Bool) : ((flagBit b).setWidth 64).toNat = b.toNat := by cases b <;> rfl

/-- Settles O33: each command's rule by the case of its test; a length of at most BCAP fits RES0. -/
theorem streamEditsAndReadsComplete : Obligations.StreamEditsAndReadsComplete := by
  intro s a hwf hcap ha
  have hidx := lt_bs_length hwf ha
  refine ⟨?clear, fun x b hx => ?pop, fun hnil => ?popEmpty, fun hlt => ?set, fun b hb => ?get, fun hge => ⟨?_, ?_⟩, ?len⟩
  case clear => exact exec_writes_stream hidx (withBs_pos ha _)
  case pop => exact exec_writes_stream hidx (ruleBsPop_of_append ha hx)
  case popEmpty => exact exec_completes_with (ruleBsPop_of_nil ha hnil)
  case set =>
    obtain ⟨t, hexec, hwritten, ht⟩ := exec_writes_stream (i := .bsSet a) hidx (ruleBsSet_of_lt ha hlt)
    refine ⟨t, hexec, hwritten, by rw [ht, List.length_set], fun j hj => ?_⟩
    rw [ht, List.getElem?_set, arg0Nat, arg1Bit, if_pos hlt]
    simp only [eq_comm (a := j)]
  case get =>
    obtain ⟨t, hexec, hresults, h0, h1⟩ := exec_returns (i := .bsGet a) (ruleBsGet_of_some ha hb)
    exact ⟨t, hexec, hresults, by rw [h0, flagBit_setWidth_toNat], h1⟩
  · exact exec_completes_with (ruleBsGet_of_ge ha hge)
  · exact exec_completes_with (ruleBsSet_of_ge ha hge)
  case len =>
    obtain ⟨t, hexec, hresults, h0, h1⟩ := exec_returns (i := .bsLen a) (s := s) (withBs_pos ha _)
    refine ⟨t, hexec, hresults, ?_, h1⟩
    have hlen := getBs_length_le hwf a
    obtain ⟨-, -, -, -, -, hbcap, -, -⟩ := hcap
    rw [h0, BitVec.toNat_ofNat, Nat.mod_eq_of_lt (by omega)]

/-! ### Rendering (R142) -/

theorem renderBits_toNat (bs : BitSeq) : (renderBits bs).map BitVec.toNat = bs.map (fun x => 0x30 + x.toNat) := by
  rw [renderBits, List.map_map]
  exact List.map_congr_left fun b _ => by cases b <;> rfl

@[simp] theorem renderBits_length (bs : BitSeq) : (renderBits bs).length = bs.length := List.length_map _

section
variable {a b : BufIdx} {s : State} (ha : a.toNat < s.cap.ntb) (hb : b.toNat < s.cap.nbs)
include ha hb

theorem ruleBsRender_of_le (h : (s.mem.getBs b).length ≤ s.cap.tcap) :
    ruleBsRender a b s = .ok (s.putTx a (renderBits (s.mem.getBs b))) := by
  rw [ruleBsRender, withTx_pos ha, withBs_pos hb, renderBits_length, if_neg (Nat.not_lt.mpr h)]

theorem ruleBsRender_of_gt (h : s.cap.tcap < (s.mem.getBs b).length) : ruleBsRender a b s = .error .txFull := by
  rw [ruleBsRender, withTx_pos ha, withBs_pos hb, renderBits_length, if_pos h]

end

/-- Settles O34: the rendering has as many characters as the stream has bits. -/
theorem renderWritesOneCharacterPerBit : Obligations.RenderWritesOneCharacterPerBit := by
  intro s a b hwf ha hb
  constructor
  · intro hfits
    obtain ⟨t, hexec, hwritten, ht⟩ := exec_writes_text (i := .bsRender a b) (lt_tx_length hwf ha)
      (ruleBsRender_of_le ha hb hfits)
    exact ⟨t, hexec, hwritten, by rw [ht, renderBits_toNat]⟩
  · intro hfull
    exact exec_completes_with (ruleBsRender_of_gt ha hb hfull)

/-! ### One command of a host's program (30_encoding.md R89) -/

section
variable (c : AsmCmd) (s : State)

@[simp] theorem issueCommand_cap : (issueCommand c s).cap = s.cap := by
  unfold issueCommand writeCmd
  split <;> rfl

@[simp] theorem issueCommand_mem : (issueCommand c s).mem = s.mem := by
  unfold issueCommand writeCmd
  split <;> rfl

@[simp] theorem issueCommand_anyErr : (issueCommand c s).status.anyErr = s.status.anyErr := by
  unfold issueCommand writeCmd
  split <;> rfl

variable {s}

theorem issueCommand_lArg0 (hidle : s.status.busy = false) : (issueCommand c s).lArg0 = c.arg0.getD s.arg0 := by
  rw [issueCommand, writeCmd_of_idle (by exact hidle)]

end

theorem runCommands_append {cs ds : List AsmCmd} {s t : State} (h : runCommands cs s = .next t) :
    runCommands (cs ++ ds) s = runCommands ds t := by
  induction cs generalizing s with
  | nil => cases h; rfl
  | cons c cs ih =>
    rw [runCommands] at h
    rw [List.cons_append, runCommands]
    split at h
    · exact ih h
    · cases h
    · cases h

/-! ### Commands that grow one stream (R143) -/

theorem setBs_setBs (m : Memory) (a : BufIdx) (v w : BitSeq) : (m.setBs a v).setBs a w = m.setBs a w := by
  rw [Memory.setBs, Memory.setBs, Memory.setBs, List.set_set]

theorem setBs_getBs {m : Memory} {a : BufIdx} (ha : a.toNat < m.bs.length) : m.setBs a (m.getBs a) = m := by
  rw [Memory.setBs, Memory.getBs, List.getD_eq_getElem _ _ ha, List.set_getElem_self]

/-- `s` is a state on the way from `s₀`: idle, with no error more than there was, and every buffer as in `s₀` but BS[a],
which holds `x`. -/
structure GrownTo (s₀ : State) (a : BufIdx) (x : BitSeq) (s : State) : Prop where
  cap    : s.cap = s₀.cap
  idle   : s.status.busy = false
  anyErr : s.status.anyErr = s₀.status.anyErr
  mem    : s.mem = s₀.mem.setBs a x

/-- Wherever on the way from `s₀` the bits fit, the commands append them to BS[a]. -/
def CommandsAppend (s₀ : State) (a : BufIdx) (cs : List AsmCmd) (bits : BitSeq) : Prop :=
  ∀ (x : BitSeq) (s : State), GrownTo s₀ a x s → x.length + bits.length ≤ s₀.cap.bcap →
    ∃ t, runCommands cs s = .next t ∧ GrownTo s₀ a (x ++ bits) t

namespace CommandsAppend

variable {s₀ : State} {a : BufIdx}

theorem nil : CommandsAppend s₀ a [] [] := fun x s h _ => ⟨s, rfl, by rwa [List.append_nil]⟩

theorem append {cs ds : List AsmCmd} {xs ys : BitSeq} (hc : CommandsAppend s₀ a cs xs) (hd : CommandsAppend s₀ a ds ys) :
    CommandsAppend s₀ a (cs ++ ds) (xs ++ ys) := by
  intro x s hs hfits
  rw [List.length_append] at hfits
  obtain ⟨u, hu, hgrown⟩ := hc x s hs (by omega)
  obtain ⟨t, ht, hgrown⟩ := hd (x ++ xs) u hgrown (by rw [List.length_append]; omega)
  exact ⟨t, (runCommands_append hu).trans ht, by rwa [← List.append_assoc]⟩

variable (ha : a.toNat < s₀.mem.bs.length)
include ha

theorem single {c : AsmCmd} {bits : BitSeq}
    (h : ∀ x s, GrownTo s₀ a x s → ruleOf c.instr (issueCommand c s) = appendBits a bits (issueCommand c s)) :
    CommandsAppend s₀ a [c] bits := by
  intro x s hs hfits
  have hold : (issueCommand c s).mem.getBs a = x := by
    rw [issueCommand_mem, hs.mem, getBs_setBs_same s₀.mem a x ha]
  have hrule : ruleOf c.instr (issueCommand c s) = .ok ((issueCommand c s).putBs a (x ++ bits)) := by
    rw [h x s hs, appendBits_ok_iff, hold, issueCommand_cap, hs.cap]
    exact ⟨hfits, rfl⟩
  refine ⟨complete none ((issueCommand c s).putBs a (x ++ bits)), ?_, ?_⟩
  · simp only [runCommands, exec_of_ruleOf_ok hrule]
  · constructor
    case cap => simp [hs.cap]
    case idle => rfl
    case anyErr => simp [hs.anyErr]
    case mem => simp [hs.mem, setBs_setBs]

/-! The commands of the leaves (R143). A source stays as it was, for no append writes it. -/

variable (hnbs : a.toNat < s₀.cap.nbs)
include hnbs

theorem bit (b : Bool) : CommandsAppend s₀ a [{ instr := .bsAppb a, arg0 := some (BitVec.ofNat 64 b.toNat) }] [b] := by
  refine single ha fun x s hs => ?_
  have hbit : (BitVec.ofNat 64 b.toNat).getLsbD 0 = b := by cases b <;> rfl
  rw [ruleOf, ruleBsAppb_eq (by rwa [issueCommand_cap, hs.cap]), issueCommand_lArg0 _ hs.idle, Option.getD_some, hbit]

theorem uint (w : AppWidth) (v : Word64) :
    CommandsAppend s₀ a [{ instr := appendInstr a w, arg0 := some v }] (uBits v.toNat (widthBits w)) := by
  refine single ha fun x s hs => ?_
  rw [ruleOf_appendInstr (by rwa [issueCommand_cap, hs.cap]), issueCommand_lArg0 _ hs.idle, Option.getD_some]

theorem stream {b : BufIdx} (hne : b ≠ a) (hb : b.toNat < s₀.cap.nbs) :
    CommandsAppend s₀ a [{ instr := .bsCat a b }] (s₀.mem.getBs b) := by
  refine single ha fun x s hs => ?_
  rw [ruleOf, ruleBsCat_eq (by rwa [issueCommand_cap, hs.cap]) (by rwa [issueCommand_cap, hs.cap]), issueCommand_mem,
    hs.mem, getBs_setBs_ne _ _ _ _ hne.symm]

theorem bytes {t : BufIdx} (ht : t.toNat < s₀.cap.ntb) :
    CommandsAppend s₀ a [{ instr := .bsAppt a t }] (textBits (s₀.mem.getTx t)) := by
  refine single ha fun x s hs => ?_
  rw [ruleOf, ruleBsAppt_eq (by rwa [issueCommand_cap, hs.cap]) (by rwa [issueCommand_cap, hs.cap]), issueCommand_mem,
    hs.mem, getTx_setBs]

end CommandsAppend

/-! ### The natural encoding of a container (R143) -/

mutual

theorem commandsAppend_natCommands {s₀ : State} {a : BufIdx} (ha : a.toNat < s₀.mem.bs.length)
    (hnbs : a.toNat < s₀.cap.nbs) :
    ∀ x : NatVal, (∀ b ∈ natStreams x, b ≠ a ∧ b.toNat < s₀.cap.nbs) → (∀ t ∈ natTexts x, t.toNat < s₀.cap.ntb) →
      CommandsAppend s₀ a (natCommands a x) (natEnc s₀.mem x)
  | .bit b, _, _ => .bit ha hnbs b
  | .uint w v, _, _ => .uint ha hnbs w v
  | .stream b, hstreams, _ =>
    have ⟨hne, hb⟩ := hstreams b (.head _)
    .stream ha hnbs hne hb
  | .bytes t, _, htexts => .bytes ha hnbs (htexts t (.head _))
  | .seq es, hstreams, htexts => commandsAppend_natCommandsList ha hnbs es hstreams htexts

theorem commandsAppend_natCommandsList {s₀ : State} {a : BufIdx} (ha : a.toNat < s₀.mem.bs.length)
    (hnbs : a.toNat < s₀.cap.nbs) :
    ∀ es : List NatVal, (∀ b ∈ natStreamsList es, b ≠ a ∧ b.toNat < s₀.cap.nbs) →
      (∀ t ∈ natTextsList es, t.toNat < s₀.cap.ntb) →
      CommandsAppend s₀ a (natCommandsList a es) (natEncList s₀.mem es)
  | [], _, _ => .nil
  | e :: es, hstreams, htexts =>
    have ⟨hstreams, hstreams'⟩ := List.forall_mem_append.mp hstreams
    have ⟨htexts, htexts'⟩ := List.forall_mem_append.mp htexts
    .append (commandsAppend_natCommands ha hnbs e hstreams htexts)
      (commandsAppend_natCommandsList ha hnbs es hstreams' htexts')

end

/-- Settles O35: the leaves' commands append from any state on the way, and `s` itself is one. -/
theorem naturalEncodingIsAppended : Obligations.NaturalEncodingIsAppended := by
  intro s a x hwf hidle ha hstreams htexts hfits
  have hlen := lt_bs_length hwf ha
  have hstart : GrownTo s a (s.mem.getBs a) s := ⟨rfl, hidle, rfl, (setBs_getBs hlen).symm⟩
  obtain ⟨t, hrun, hgrown⟩ := commandsAppend_natCommands hlen ha x hstreams htexts _ s hstart hfits
  refine ⟨t, hrun, ?_, fun b hb => ?_, ?_, hgrown.anyErr⟩
  · rw [hgrown.mem, getBs_setBs_same s.mem a _ hlen]
  · rw [hgrown.mem, getBs_setBs_ne s.mem a b _ (Ne.symm (by simpa using hb))]
  · rw [hgrown.mem, setBs_tx]

end Sys2Proof.Machine
end

section
/-! PROOFS. The text-buffer commands (43_text.md R160 to R164): each command's rule by the case of its test, completed
by the rules for how a command ends. No test looks at a byte's value or at the symbol table. -/

namespace Sys2Proof.Machine

section
variable {a : BufIdx} {s : State} (ha : a.toNat < s.cap.ntb)
include ha

theorem ruleTxPush_of_lt (h : (s.mem.getTx a).length < s.cap.tcap) :
    ruleTxPush a s = .ok (s.putTx a (s.mem.getTx a ++ [arg0Byte s])) := by
  rw [ruleTxPush, withTx_pos ha, if_neg (Nat.not_lt.mpr h)]

theorem ruleTxPush_of_ge (h : s.cap.tcap ≤ (s.mem.getTx a).length) : ruleTxPush a s = .error .txFull := by
  rw [ruleTxPush, withTx_pos ha, if_pos (Nat.lt_succ_of_le h)]

theorem ruleTxGet_of_some {c : Byte} (h : (s.mem.getTx a)[arg0Nat s]? = some c) :
    ruleTxGet a s = .ok { s with res0 := c.setWidth 64 } := by
  rw [ruleTxGet, withTx_pos ha, h]

theorem ruleTxGet_of_ge (h : (s.mem.getTx a).length ≤ arg0Nat s) : ruleTxGet a s = .error .index := by
  rw [ruleTxGet, withTx_pos ha, List.getElem?_eq_none h]

theorem ruleTxSet_of_lt (h : arg0Nat s < (s.mem.getTx a).length) :
    ruleTxSet a s = .ok (s.putTx a ((s.mem.getTx a).set (arg0Nat s) (arg1Byte s))) := by
  rw [ruleTxSet, withTx_pos ha, if_neg (Nat.not_le.mpr h)]

theorem ruleTxSet_of_ge (h : (s.mem.getTx a).length ≤ arg0Nat s) : ruleTxSet a s = .error .index := by
  rw [ruleTxSet, withTx_pos ha, if_pos h]

end

/-- Settles O36: each command's rule by the case of its test; a length of at most TCAP fits RES0. -/
theorem textCommandsComplete : Obligations.TextCommandsComplete := by
  intro s a hwf hcap ha
  have hidx := lt_tx_length hwf ha
  refine ⟨?clear, fun hroom => ?push, fun hfull => ?pushFull, fun c hc => ?get, fun hlt => ?set,
    fun hge => ⟨?getBeyond, ?setBeyond⟩, ?len⟩
  case clear => exact exec_writes_text hidx (withTx_pos ha _)
  case push => exact exec_writes_text hidx (ruleTxPush_of_lt ha hroom)
  case pushFull => exact exec_completes_with (ruleTxPush_of_ge ha hfull.ge)
  case get => exact exec_returns (ruleTxGet_of_some ha hc)
  case set =>
    obtain ⟨t, hexec, hwritten, ht⟩ := exec_writes_text (i := .txSet a) hidx (ruleTxSet_of_lt ha hlt)
    refine ⟨t, hexec, hwritten, by rw [ht, List.length_set], fun j hj => ?_⟩
    rw [ht, List.getElem?_set, arg0Nat, arg1Byte, if_pos hlt]
    simp only [eq_comm (a := j)]
  case getBeyond => exact exec_completes_with (ruleTxGet_of_ge ha hge)
  case setBeyond => exact exec_completes_with (ruleTxSet_of_ge ha hge)
  case len =>
    obtain ⟨t, hexec, hresults, h0, h1⟩ := exec_returns (i := .txLen a) (s := s) (withTx_pos ha _)
    refine ⟨t, hexec, hresults, ?_, h1⟩
    have hlen := getTx_length_le hwf a
    obtain ⟨-, -, -, -, -, -, -, htcap⟩ := hcap
    rw [h0, BitVec.toNat_ofNat, Nat.mod_eq_of_lt (by omega)]

end Sys2Proof.Machine
end

section
/-! PROOFS. The tests of R310 that come after the buffer fields (44_fixed_block.md R172 to R174): the table, the sentinel,
the derived state, and for an encoder the lookup of its message. -/

namespace Sys2Proof.Machine

/-! ### A test that fails -/

theorem withEom_neg {s : State} (h : s.table.indexOf s.eom = none) (k : Except Err State) :
    withEom s k = .error .noEom := if_neg (by simp [h])

theorem withState_false (k : Except Err State) : withState false k = .error .noState := rfl

theorem withLookup_none {s : State} {msg : Text} (h : s.table.lookupAll msg = none) (k : List Nat → Except Err State) :
    withLookup s msg k = .error .symbolAbsent := by
  rw [withLookup, h]

theorem lookupAll_eq_none {t : Table} {msg : Text} {c : Byte} (hc : c ∈ msg) (h : t.indexOf c = none) :
    t.lookupAll msg = none := by
  refine Option.eq_none_iff_forall_ne_some.mpr fun idx hidx => ?_
  obtain ⟨j, hj, rfl⟩ := List.getElem_of_mem hc
  have hsome := (lookupAll_some_iff.mp hidx).get hj ((lookupAll_length hidx).symm ▸ hj)
  rw [List.get_eq_getElem, h] at hsome
  cases hsome

/-! ### The tests as a command makes them -/

/-- The sentinel test, where the command makes it. -/
def sentinelTest (s : State) (i : Instr) (k : Except Err State) : Except Err State :=
  if needsEom i then withEom s k else k

/-- The derived-state test, where the command makes it. -/
def stateTest (s : State) (i : Instr) (k : Except Err State) : Except Err State :=
  match needsState s.valid i with
  | some v => withState v k
  | none => k

theorem sentinelTest_pos {s : State} {i : Instr} (h : needsEom i = true → (s.table.indexOf s.eom).isSome = true)
    (k : Except Err State) : sentinelTest s i k = k := by
  unfold sentinelTest
  split
  · exact withEom_pos (h ‹_›) k
  · rfl

theorem streamText_fields {p : Params} {a b : BufIdx}
    (h : ((decide (a.toNat < p.nbs) && true) && (decide (b.toNat < p.ntb) && true)) = true) :
    a.toNat < p.nbs ∧ b.toNat < p.ntb := by
  simpa using h

theorem textStream_fields {p : Params} {a b : BufIdx}
    (h : ((decide (b.toNat < p.nbs) && true) && (decide (a.toNat < p.ntb) && true)) = true) :
    a.toNat < p.ntb ∧ b.toNat < p.nbs := by
  simpa [and_comm] using h

section
variable {i : Instr} {s : State} (hwf : i.wellFormed s.cap = true)
include hwf

/-- A command that needs a table makes the three tests, in this order, before anything of its own. -/
theorem ruleOf_tests (hi : needsTable i = true) :
    ∃ k, ruleOf i s = withTable s (sentinelTest s i (stateTest s i k)) := by
  cases i
  case encBlock a b | encHuf a b | encSf a b | encArith a b | encLz77 a b | encLzw a b =>
    obtain ⟨ha, hb⟩ := streamText_fields hwf
    exact ⟨_, (withBs_pos ha _).trans (withTx_pos hb _)⟩
  case decBlock a b | decHuf a b | decSf a b | decArith a b | decLz77 a b | decLzw a b =>
    obtain ⟨ha, hb⟩ := textStream_fields hwf
    exact ⟨_, (withTx_pos ha _).trans (withBs_pos hb _)⟩
  case stSize | stSymat | stIndexof | stProbat => exact ⟨_, rfl⟩
  case avgBlock | avgHuf | avgSf | prepHuf | prepSf | prepArith => exact ⟨_, rfl⟩
  all_goals cases hi

/-- An encoder with a lookup makes it after the table and sentinel tests. -/
theorem ruleOf_lookup {msg : Text} (hmsg : messageOf s i = some msg) :
    ∃ k, ruleOf i s = withTable s (sentinelTest s i (withLookup s msg k)) := by
  cases i
  case encBlock a b | encHuf a b | encSf a b | encArith a b | encLz77 a b | encLzw a b =>
    obtain ⟨ha, hb⟩ := streamText_fields hwf
    cases hmsg
    exact ⟨_, (withBs_pos ha _).trans (withTx_pos hb _)⟩
  all_goals cases hmsg

end

/-- Settles O18: the first test of `ruleOf_tests` that fails is the error. -/
theorem tableSentinelAndStateAreTestedInOrder : Obligations.TableSentinelAndStateAreTestedInOrder := by
  intro i s hwf hi
  obtain ⟨k, hk⟩ := ruleOf_tests hwf hi
  refine ⟨fun hinvalid => ?_, fun hvalid hneeds habsent => ?_, fun hvalid heom hstate => ?_⟩
  · exact exec_completes_with (hk.trans (withTable_neg hinvalid _))
  · exact exec_completes_with (by rw [hk, withTable_pos hvalid, sentinelTest, if_pos hneeds, withEom_neg habsent])
  · exact exec_completes_with
      (by rw [hk, withTable_pos hvalid, sentinelTest_pos heom, stateTest, hstate]; exact withState_false k)

/-- Settles O19: the lookup is the first test that can fail, and one absent symbol fails it. -/
theorem absentSymbolIsReported : Obligations.AbsentSymbolIsReported := by
  intro i s msg c hwf hvalid heom hmsg hc habsent
  obtain ⟨k, hk⟩ := ruleOf_lookup hwf hmsg
  exact exec_completes_with
    (by rw [hk, withTable_pos hvalid, sentinelTest_pos heom, withLookup_none (lookupAll_eq_none hc habsent)])

end Sys2Proof.Machine
end

section
/-! PROOFS. The codec commands up to their codes (44_fixed_block.md R170 to R181, 45_huffman.md R200 to R203, 46_shannon_fano.md
R220 to R223, 48_lz77.md R270, 49_lzw.md R290): an encoder stores its output or reports BS_FULL, a decoder stores what its
decode function answers. -/

namespace Sys2Proof.Machine

/-! ### How an encoder and a decoder end (R170, R171) -/

section
variable {i : Instr} {a : BufIdx} {s : State}

/-- What an encoder commits with its output besides its codec state. -/
theorem streamCommit_frame (u : State) (a : BufIdx) (out : BitSeq) :
    SameStreams [a] u (complete none (u.putBs a out)) := (oneStreamWritten_complete u a out).streams

theorem exec_stores {u : State} {out : BitSeq} (h : ruleOf i s = storeBits a out u) (hcap : u.cap = s.cap) :
    (out.length ≤ s.cap.bcap → exec i s = .next (complete none (u.putBs a out))) ∧
    (s.cap.bcap < out.length → ∃ t, exec i s = .next t ∧ CompletedWith .bsFull s t) := by
  rw [← hcap]
  constructor
  · intro hfits
    exact exec_of_ruleOf_ok (h.trans ((storeBits_ok_iff ..).mpr ⟨hfits, rfl⟩))
  · intro hfull
    exact exec_completes_with (h.trans ((storeBits_error_iff ..).mpr ⟨hfull, rfl⟩))

/-- An encoder without codec state of its own writes its output into the stream, or reports BS_FULL. -/
theorem exec_stores_stream {out : BitSeq} (ha : a.toNat < s.mem.bs.length) (h : ruleOf i s = storeBits a out s) :
    (out.length ≤ s.cap.bcap → ∃ t, exec i s = .next t ∧ OneStreamWritten a s t ∧ t.mem.getBs a = out) ∧
    (s.cap.bcap < out.length → ∃ t, exec i s = .next t ∧ CompletedWith .bsFull s t) := by
  obtain ⟨hok, herr⟩ := exec_stores h rfl
  exact ⟨fun hfits => ⟨_, hok hfits, oneStreamWritten_complete s a out, getBs_setBs_same s.mem a out ha⟩, herr⟩

/-- A decoder writes what its decode function gives, or reports the function's error. -/
theorem exec_decodes {out : Except Err Text} (ha : a.toNat < s.mem.tx.length) (h : ruleOf i s = storeText a out s) :
    (∀ x, out = .ok x → ∃ t, exec i s = .next t ∧ OneTextWritten a s t ∧ t.mem.getTx a = x) ∧
    (∀ e, out = .error e → ∃ t, exec i s = .next t ∧ CompletedWith e s t) := by
  constructor
  · intro x hx
    exact exec_writes_text ha (h.trans ((storeText_ok_iff ..).mpr ⟨x, hx, rfl⟩))
  · intro e he
    exact exec_completes_with (h.trans ((storeText_error_iff ..).mpr he))

end

/-! ### The encoders with their tests passed -/

section
variable {a b : BufIdx} {s : State} (ha : a.toNat < s.cap.nbs) (hb : b.toNat < s.cap.ntb)
include ha hb

theorem ruleEncFixed_eq : ruleEncFixed a b s = storeBits a (textBits (s.mem.getTx b)) s := by
  rw [ruleEncFixed, withBs_pos ha, withTx_pos hb]

variable {idx : List Nat} (hvalid : s.table.valid = true)
include hvalid

section
variable (hidx : s.table.lookupAll (s.mem.getTx b) = some idx)
include hidx

theorem ruleEncBlock_eq : ruleEncBlock a b s = storeBits a (blockBits (blockWidth s.table) idx) s := by
  rw [ruleEncBlock, withBs_pos ha, withTx_pos hb, withTable_pos hvalid, withLookup_some hidx]

theorem ruleEncHuf_eq : ruleEncHuf a b s = storeBits a (hufEncode (hufBuild s.table) idx)
    { s with huf := hufBuild s.table, valid := { s.valid with huf := true } } := by
  rw [ruleEncHuf, withBs_pos ha, withTx_pos hb, withTable_pos hvalid, withLookup_some hidx]

theorem ruleEncSf_eq : ruleEncSf a b s =
    if idx.any (fun i => (sfBuild s.table).lenAt i == 0) then .error .noCode
    else storeBits a (sfEncode (sfBuild s.table) idx)
      { s with sf := sfBuild s.table, valid := { s.valid with sf := true } } := by
  rw [ruleEncSf, withBs_pos ha, withTx_pos hb, withTable_pos hvalid, withLookup_some hidx]

theorem ruleEncLz77_eq : ruleEncLz77 a b s = storeBits a (lzEncode s.table (s.mem.getTx b) idx)
    { s with lz77Window := BitVec.ofNat 32 (lzWindow (s.mem.getTx b).length)
             lz77Lookahead := BitVec.ofNat 32 (lzLookahead (s.mem.getTx b).length)
             valid := { s.valid with lz77 := true } } := by
  rw [ruleEncLz77, withBs_pos ha, withTx_pos hb, withTable_pos hvalid, withLookup_some hidx]

end

theorem ruleEncLzw_eq (heom : (s.table.indexOf s.eom).isSome = true)
    (hidx : s.table.lookupAll (lzwMessage s.eom (s.mem.getTx b)) = some idx) :
    ruleEncLzw a b s = storeBits a (lzwEncode s.table (lzwMessage s.eom (s.mem.getTx b))).1
      { s with
        lzwBlocksize := BitVec.ofNat 6 (clog2 (lzwCodes s.table (lzwMessage s.eom (s.mem.getTx b))).2)
        lzwDictsize := BitVec.ofNat 64 (lzwCodes s.table (lzwMessage s.eom (s.mem.getTx b))).2
        valid := { s.valid with lzw := true } } := by
  rw [ruleEncLzw, withBs_pos ha, withTx_pos hb, withTable_pos hvalid, withEom_pos heom, withLookup_some hidx]
  rfl

end

/-! ### FIXED and BLOCK -/

theorem blockBits_length {t : Table} {msg : Text} {idx : List Nat} (h : t.lookupAll msg = some idx) (w : Nat) :
    (blockBits w idx).length = msg.length * w := by
  rw [blockBits, flatMap_uBits_length, lookupAll_length h]

theorem blockWidth_lt (t : Table) : blockWidth t < 2 ^ 64 := by
  have hsize : t.size ≤ 2 ^ 9 := t.n.isLt.le
  have hclog := clog2_le_of_le_two_pow hsize
  exact max_lt (by decide) (by omega)

/-- Settles O37: the outputs have 8 and W bits per symbol, and each encoder stores its own. -/
theorem fixedAndBlockEncodersComplete : Obligations.FixedAndBlockEncodersComplete := by
  intro s a b idx hwf ha hb
  have hidx := lt_bs_length hwf ha
  obtain ⟨hfixed, hfixedFull⟩ := exec_stores_stream (i := .encFixed a b) hidx (ruleEncFixed_eq ha hb)
  rw [textBits_length] at hfixed hfixedFull
  refine ⟨hfixed, hfixedFull, fun hvalid hlookup => ?_, exec_returns (i := .avgFixed) rfl, fun hvalid => ?_⟩
  · have h := exec_stores_stream (i := .encBlock a b) hidx (ruleEncBlock_eq ha hb hvalid hlookup)
    rwa [blockBits_length hlookup] at h
  · obtain ⟨t, hexec, hresults, h0, h1⟩ := exec_returns (i := .avgBlock) (withTable_pos hvalid _)
    exact ⟨t, hexec, hresults, by rw [h0, BitVec.toNat_ofNat, Nat.mod_eq_of_lt (blockWidth_lt _)]; rfl, h1⟩

/-! ### Looked-up indices -/

theorem Table.indexOf_lt {t : Table} {c : Byte} {i : Nat} (h : t.indexOf c = some i) : i < t.size ∧ t.symAt i = c := by
  obtain ⟨hi, hsym, -⟩ := indexOf_some_iff.mp h
  exact ⟨(lt_syms_length_iff.mp hi).1, (List.getD_eq_getElem _ _ hi).trans hsym⟩

/-- The looked-up indices name the message's symbols. -/
theorem lookupAll_symAt {t : Table} {msg : Text} {idx : List Nat} (h : t.lookupAll msg = some idx) :
    (∀ i ∈ idx, i < t.size) ∧ idx.map t.symAt = msg := by
  rw [lookupAll_some_iff] at h
  induction h with
  | nil => exact ⟨nofun, rfl⟩
  | cons hc _ ih =>
    obtain ⟨hlt, hsym⟩ := Table.indexOf_lt hc
    exact ⟨List.forall_mem_cons.mpr ⟨hlt, ih.1⟩, by rw [List.map_cons, hsym, ih.2]⟩

/-! ### Averages -/

theorem Table.weightAt_lt (t : Table) (i : Nat) : t.weightAt i < 2 ^ 32 := by
  unfold Table.weightAt
  by_cases hi : i < t.weights.length
  · rw [List.getD_eq_getElem _ _ hi]
    simpa [Table.weights] using BitVec.isLt _
  · rw [List.getD_eq_default _ _ (Nat.le_of_not_lt hi)]
    decide

/-- At most 256 weights, each times a length of at most 8 bits, fit RES0. -/
theorem weightedLength_lt {t : Table} {n : Nat} (hn : n ≤ 256) {len : Nat → Nat} (hlen : ∀ i, len i < 2 ^ 8) :
    ((List.range n).map (fun i => t.weightAt i * len i)).sum < 2 ^ 64 := by
  have hterm : ∀ x ∈ (List.range n).map (fun i => t.weightAt i * len i), x ≤ 2 ^ 40 := by
    intro x hx
    obtain ⟨i, -, rfl⟩ := List.mem_map.mp hx
    exact (Nat.mul_le_mul (t.weightAt_lt i).le (hlen i).le).trans (by norm_num)
  have hsum := List.sum_le_card_nsmul _ _ hterm
  rw [List.length_map, List.length_range, smul_eq_mul] at hsum
  omega

theorem hufWeightedLength_hufBuild {t : Table} (h : t.size ≤ 256) :
    hufWeightedLength (hufBuild t) t =
      ((List.range t.n.toNat).map (fun i => t.weights.getD i 0 * ((hufCodes t.weights).getD i []).length)).sum := by
  rw [hufWeightedLength, hufBuild_n h]
  refine congrArg List.sum (List.map_congr_left fun i hi => ?_)
  rw [hufBuild_lenAt h (List.mem_range.mp hi), Table.weightAt]

/-! ### HUF -/

theorem hufEncode_hufBuild {t : Table} (h : t.size ≤ 256) (idx : List Nat) :
    hufEncode (hufBuild t) idx = idx.flatMap (fun i => (hufCodes t.weights).getD i []) :=
  List.flatMap_congr fun i _ => hufBuild_codeAt h i

/-- Settles O38: the arrays of the built state hold the codes and their lengths. -/
theorem huffmanCommandsComplete : Obligations.HuffmanCommandsComplete := by
  intro s a b idx hs hvalid
  obtain ⟨-, hsize, -⟩ := hs.table hvalid
  refine ⟨fun ha hb hlookup => ?enc, ?prep, fun hbuilt => ?avg⟩
  case enc =>
    obtain ⟨hok, hfull⟩ := exec_stores (i := .encHuf a b) (ruleEncHuf_eq ha hb hvalid hlookup) rfl
    rw [hufEncode_hufBuild hsize] at hok hfull
    refine ⟨fun hfits => ⟨_, hok hfits, completedOk_complete rfl rfl rfl,
      getBs_setBs_same _ _ _ (lt_bs_length hs.buffers ha), streamCommit_frame _ _ _, rfl, ⟨rfl, rfl⟩, ?_,
      ⟨rfl, rfl⟩, rfl, rfl, rfl, rfl⟩, hfull⟩
    constructor <;> rfl
  case prep =>
    refine ⟨_, exec_of_ruleOf_ok (rulePrepHuf_ok_iff.mpr ⟨hvalid, rfl⟩), completedOk_complete rfl rfl rfl, rfl,
      ⟨rfl, rfl⟩, ?_, ⟨rfl, rfl⟩, rfl, rfl, rfl, rfl⟩
    constructor <;> rfl
  case avg =>
    obtain ⟨t, hexec, hresults, h0, h1⟩ := exec_returns (i := .avgHuf)
      ((withTable_pos hvalid _).trans (withState_pos hbuilt _))
    obtain ⟨-, hhuf⟩ := hs.derived.1 hbuilt
    refine ⟨t, hexec, hresults, ?_, h1⟩
    rw [h0, hhuf, BitVec.toNat_ofNat, Nat.mod_eq_of_lt, hufWeightedLength_hufBuild hsize]
    exact weightedLength_lt (by rwa [hufBuild_n hsize]) fun i => BitVec.isLt _

/-! ### SF -/

/-- Of looked-up symbols those of weight 0, and no others, have no codeword (R216). -/
theorem sfBuild_any_noCode {t : Table} (hwf : t.wf) (hv : t.valid = true) {idx : List Nat} (hidx : ∀ i ∈ idx, i < t.size) :
    idx.any (fun i => (sfBuild t).lenAt i == 0) = true ↔ ∃ i ∈ idx, t.weightAt i = 0 := by
  rw [List.any_eq_true]
  refine exists_congr fun i => and_congr_right fun hi => ?_
  rw [beq_iff_eq]
  constructor
  · intro hlen
    by_contra hw
    rw [sfBuild_lenAt hwf hv (hidx i hi) (Nat.pos_of_ne_zero hw)] at hlen
    have := one_le_sfLength (t.weightAt i) t.total
    omega
  · exact sfBuild_lenAt_of_weight_zero hwf hv (hidx i hi)

/-- Settles O39: the test for NO_CODE comes first, then the output is stored. -/
theorem shannonFanoCommandsComplete : Obligations.ShannonFanoCommandsComplete := by
  intro s a b idx hs hvalid
  obtain ⟨-, hsize, -⟩ := hs.table hvalid
  refine ⟨fun ha hb hlookup => ?enc, ?prep, fun hbuilt => ?avg⟩
  case enc =>
    have hrule := ruleEncSf_eq ha hb hvalid hlookup
    have hany := sfBuild_any_noCode hs.table hvalid (lookupAll_symAt hlookup).1
    have hcoded (h : ∀ i ∈ idx, 0 < s.table.weights.getD i 0) := exec_stores (i := .encSf a b)
      (hrule.trans (if_neg (mt hany.mp fun ⟨i, hi, hw⟩ => (h i hi).ne' hw))) rfl
    refine ⟨fun hpos hfits => ⟨_, (hcoded hpos).1 hfits, completedOk_complete rfl rfl rfl,
      getBs_setBs_same _ _ _ (lt_bs_length hs.buffers ha), streamCommit_frame _ _ _, rfl, ⟨rfl, rfl⟩, ?_,
      ⟨rfl, rfl⟩, rfl, rfl, rfl, rfl⟩, fun hpos hfull => (hcoded hpos).2 hfull, fun hzero => ?_⟩
    · constructor <;> rfl
    · exact exec_completes_with (i := .encSf a b) (hrule.trans (if_pos (hany.mpr hzero)))
  case prep =>
    refine ⟨_, exec_of_ruleOf_ok (rulePrepSf_ok_iff.mpr ⟨hvalid, rfl⟩), completedOk_complete rfl rfl rfl, rfl,
      ⟨rfl, rfl⟩, ?_, ⟨rfl, rfl⟩, rfl, rfl, rfl, rfl⟩
    constructor <;> rfl
  case avg =>
    obtain ⟨t, hexec, hresults, h0, h1⟩ := exec_returns (i := .avgSf)
      ((withTable_pos hvalid _).trans (withState_pos hbuilt _))
    obtain ⟨-, hsf⟩ := hs.derived.2.1 hbuilt
    refine ⟨t, hexec, hresults, ?_, h1⟩
    have hlt := weightedLength_lt (t := s.table) (len := (sfBuild s.table).lenAt) hsize
      fun i => (BitVec.isLt _).trans (by decide)
    rw [h0, hsf, BitVec.toNat_ofNat]
    exact Nat.mod_eq_of_lt hlt

/-! ### LZ77 and LZW -/

theorem lzWindow_le (n : Nat) : lzWindow n ≤ n := by
  unfold lzWindow
  split
  · exact Nat.zero_le n
  · exact (Nat.le_self_pow (by decide) _).trans (iCbrt_cube_le n)

theorem lzLookahead_le (n : Nat) : lzLookahead n ≤ n := by
  unfold lzLookahead
  split
  · exact Nat.zero_le n
  · exact min_le_left _ _

theorem lzwLoop_size_le (t : Table) (msg : Text) (cur : Nat) (trie : LzwTrie) (size : Nat) :
    (lzwLoop t msg cur trie size).2 ≤ size + msg.length := by
  induction msg generalizing cur trie size with
  | nil => exact le_rfl
  | cons c cs ih =>
    rw [lzwLoop, List.length_cons]
    split
    · exact (ih ..).trans (by omega)
    · exact (ih ..).trans (by omega)

theorem lzwCodes_size_le (t : Table) (msg : Text) : (lzwCodes t msg).2 ≤ t.size + msg.length := by
  cases msg with
  | nil => exact le_rfl
  | cons c cs => exact (lzwLoop_size_le t cs _ _ _).trans (Nat.add_le_add_left (Nat.le_succ _) _)

theorem lzwMessage_length_le (eom : Byte) (text : Text) : (lzwMessage eom text).length ≤ text.length :=
  (List.takeWhile_sublist _).length_le

theorem getTx_length_lt {s : State} (hs : s.Inv) (b : BufIdx) : (s.mem.getTx b).length < 2 ^ 32 := by
  have hlen := getTx_length_le hs.buffers b
  obtain ⟨-, -, -, -, -, -, -, htcap⟩ := hs.params
  omega

/-- The final dictionary of a text buffer's message has fewer than 2^33 entries. -/
theorem lzwCodes_size_lt {s : State} (hs : s.Inv) (b : BufIdx) :
    (lzwCodes s.table (lzwMessage s.eom (s.mem.getTx b))).2 < 2 ^ 33 := by
  have hsize := lzwCodes_size_le s.table (lzwMessage s.eom (s.mem.getTx b))
  have hmsg := lzwMessage_length_le s.eom (s.mem.getTx b)
  have htext := getTx_length_lt hs b
  have htable : s.table.size < 2 ^ 9 := s.table.n.isLt
  omega

/-- Settles O41: the registers hold the sizes, which the text's length bounds. -/
theorem dictionaryEncodersComplete : Obligations.DictionaryEncodersComplete := by
  intro s a b idx hs hvalid ha hb
  have hlz (hlookup) := exec_stores (i := .encLz77 a b) (ruleEncLz77_eq (idx := idx) ha hb hvalid hlookup) rfl
  have hlzw (heom) (hlookup) := exec_stores (i := .encLzw a b) (ruleEncLzw_eq (idx := idx) ha hb hvalid heom hlookup) rfl
  have hbuf := lt_bs_length hs.buffers ha
  have hlen := getTx_length_lt hs b
  have hsize := lzwCodes_size_lt hs b
  refine ⟨fun hlookup hfull => (hlz hlookup).2 hfull, fun heom hlookup hfull => (hlzw heom hlookup).2 hfull,
    fun hlookup hfits => ?_, fun heom hlookup hfits => ?_⟩
  · refine ⟨_, (hlz hlookup).1 hfits, completedOk_complete rfl rfl rfl, getBs_setBs_same _ _ _ hbuf,
      streamCommit_frame _ _ _, rfl, ⟨rfl, rfl⟩, ⟨rfl, rfl⟩, ?_, ?_, rfl, rfl, rfl, rfl⟩
    · exact Nat.mod_eq_of_lt ((lzWindow_le _).trans_lt hlen)
    · exact Nat.mod_eq_of_lt ((lzLookahead_le _).trans_lt hlen)
  · have hdict : (lzwCodes s.table (lzwMessage s.eom (s.mem.getTx b))).2 % 2 ^ 64 = _ := Nat.mod_eq_of_lt (by omega)
    have hblock := clog2_le_of_le_two_pow hsize.le
    refine ⟨_, (hlzw heom hlookup).1 hfits, completedOk_complete rfl rfl rfl, getBs_setBs_same _ _ _ hbuf,
      streamCommit_frame _ _ _, rfl, ⟨rfl, rfl⟩, ⟨rfl, rfl⟩, ?_, hdict, rfl, rfl, rfl, rfl⟩
    exact (Nat.mod_eq_of_lt (by omega)).trans (congrArg clog2 hdict.symm)

end Sys2Proof.Machine
end

section
/-! PROOFS. The decoders (44_fixed_block.md R171, R176, R180): each commits what its decode function answers, and a decode
function that takes a stream code by code gives the codes' symbols or runs out of room. -/

namespace Sys2Proof.Machine

/-! ### The decoders with their tests passed -/

section
variable {a b : BufIdx} {s : State} (ha : a.toNat < s.cap.ntb) (hb : b.toNat < s.cap.nbs)
include ha hb

theorem ruleDecFixed_eq : ruleDecFixed a b s = storeText a (decodeFixed s.cap.tcap (s.mem.getBs b)) s := by
  rw [ruleDecFixed, withTx_pos ha, withBs_pos hb]

variable (hvalid : s.table.valid = true)
include hvalid

theorem ruleDecBlock_eq : ruleDecBlock a b s = storeText a (decodeBlock s.table s.cap.tcap (s.mem.getBs b)) s := by
  rw [ruleDecBlock, withTx_pos ha, withBs_pos hb, withTable_pos hvalid]

theorem ruleDecHuf_eq (hbuilt : s.valid.huf = true) :
    ruleDecHuf a b s = storeText a (hufDecode s.huf s.table s.cap.tcap (s.mem.getBs b)) s := by
  rw [ruleDecHuf, withTx_pos ha, withBs_pos hb, withTable_pos hvalid, withState_pos hbuilt]

theorem ruleDecSf_eq (hbuilt : s.valid.sf = true) :
    ruleDecSf a b s =
      storeText a (sfDecode s.sf s.table (s.mem.getBs b) (sfCandidates s.sf s.table) [] s.cap.tcap) s := by
  rw [ruleDecSf, withTx_pos ha, withBs_pos hb, withTable_pos hvalid, withState_pos hbuilt]

theorem ruleDecLz77_eq (hbuilt : s.valid.lz77 = true) :
    ruleDecLz77 a b s = storeText a
      (lzDecode s.table s.lz77Window.toNat s.lz77Lookahead.toNat s.cap.tcap (s.mem.getBs b)) s := by
  rw [ruleDecLz77, withTx_pos ha, withBs_pos hb, withTable_pos hvalid, withState_pos hbuilt]

variable (heom : (s.table.indexOf s.eom).isSome = true)
include heom

theorem ruleDecArith_eq (hbuilt : s.valid.arith = true) :
    ruleDecArith a b s = storeText a (arDecode s.ar s.table s.eom s.cap.tcap arStart
      (BitFeed.fill Config.precision { v := 0, rest := s.mem.getBs b })) s := by
  rw [ruleDecArith, withTx_pos ha, withBs_pos hb, withTable_pos hvalid, withEom_pos heom, withState_pos hbuilt]

theorem ruleDecLzw_eq (hbuilt : s.valid.lzw = true) :
    ruleDecLzw a b s = (lzwDecode s.table s.lzwBlocksize.toNat s.cap.tcap (s.mem.getBs b)).map
      (fun r => { s.putTx a r.1 with lzwDictsize := BitVec.ofNat 64 r.2 }) := by
  rw [ruleDecLzw, withTx_pos ha, withBs_pos hb, withTable_pos hvalid, withEom_pos heom, withState_pos hbuilt]
  cases lzwDecode s.table s.lzwBlocksize.toNat s.cap.tcap (s.mem.getBs b) <;> rfl

end

/-! ### What a decoder commits -/

/-- The effects of a decoder whose decode function answers `r`. -/
def commitDecoded (a : BufIdx) (r : Except Err (Text × Word64)) (s : State) : Except Err State :=
  r.map fun p => { s.putTx a p.1 with lzwDictsize := p.2 }

theorem storeText_eq_commitDecoded (a : BufIdx) (out : Except Err Text) (s : State) :
    storeText a out s = commitDecoded a (out.map (·, s.lzwDictsize)) s := by
  cases out <;> rfl

theorem eq_true_of_some_ne {v : Bool} (h : some v ≠ some false) : v = true := by simpa using h

theorem decodedBy_dest_lt {s : State} {i : Instr} {a : BufIdx} {r : Except Err (Text × Word64)}
    (hdec : decodedBy s i = some (a, r)) (hwf : i.wellFormed s.cap = true) : a.toNat < s.cap.ntb := by
  cases i
  case decFixed | decBlock | decHuf | decSf | decArith | decLz77 | decLzw =>
    cases hdec
    exact (textStream_fields hwf).1
  all_goals cases hdec

theorem ruleOf_decodedBy {s : State} {i : Instr} {a : BufIdx} {r : Except Err (Text × Word64)}
    (hdec : decodedBy s i = some (a, r)) (hwf : i.wellFormed s.cap = true)
    (hvalid : needsTable i = true → s.table.valid = true)
    (heom : needsEom i = true → (s.table.indexOf s.eom).isSome = true) (hstate : needsState s.valid i ≠ some false) :
    ruleOf i s = commitDecoded a r s := by
  cases i
  case decFixed =>
    obtain ⟨ha, hb⟩ := textStream_fields hwf
    cases hdec
    exact (ruleDecFixed_eq ha hb).trans (storeText_eq_commitDecoded ..)
  case decBlock =>
    obtain ⟨ha, hb⟩ := textStream_fields hwf
    cases hdec
    exact (ruleDecBlock_eq ha hb (hvalid rfl)).trans (storeText_eq_commitDecoded ..)
  case decHuf =>
    obtain ⟨ha, hb⟩ := textStream_fields hwf
    cases hdec
    exact (ruleDecHuf_eq ha hb (hvalid rfl) (eq_true_of_some_ne hstate)).trans (storeText_eq_commitDecoded ..)
  case decSf =>
    obtain ⟨ha, hb⟩ := textStream_fields hwf
    cases hdec
    exact (ruleDecSf_eq ha hb (hvalid rfl) (eq_true_of_some_ne hstate)).trans (storeText_eq_commitDecoded ..)
  case decArith =>
    obtain ⟨ha, hb⟩ := textStream_fields hwf
    cases hdec
    exact (ruleDecArith_eq ha hb (hvalid rfl) (heom rfl) (eq_true_of_some_ne hstate)).trans
      (storeText_eq_commitDecoded ..)
  case decLz77 =>
    obtain ⟨ha, hb⟩ := textStream_fields hwf
    cases hdec
    exact (ruleDecLz77_eq ha hb (hvalid rfl) (eq_true_of_some_ne hstate)).trans (storeText_eq_commitDecoded ..)
  case decLzw =>
    obtain ⟨ha, hb⟩ := textStream_fields hwf
    cases hdec
    refine (ruleDecLzw_eq ha hb (hvalid rfl) (heom rfl) (eq_true_of_some_ne hstate)).trans ?_
    cases lzwDecode s.table s.lzwBlocksize.toNat s.cap.tcap (s.mem.getBs _) <;> rfl
  all_goals cases hdec

/-- Settles O43: the rule is the commit of what the decode function answers. -/
theorem decodersCommitTheirOutput : Obligations.DecodersCommitTheirOutput := by
  intro s i a r hmem hdec hwf hvalid heom hstate
  have hrule := ruleOf_decodedBy hdec hwf hvalid heom hstate
  constructor
  · rintro x d rfl
    refine ⟨_, exec_of_ruleOf_ok hrule, completedOk_complete rfl rfl rfl,
      getTx_setTx_same s.mem a x (lt_tx_length hmem (decodedBy_dest_lt hdec hwf)), rfl, (oneTextWritten_complete s a x).texts, rfl, ⟨rfl, rfl⟩, ?_,
      ⟨rfl, rfl⟩, rfl, rfl, rfl, rfl⟩
    constructor <;> rfl
  · rintro e rfl
    exact exec_completes_with hrule

/-! ### Decoding code by code (R171) -/

@[simp] theorem emitSym_zero (c : Byte) (rest : Nat → Except Err Text) : emitSym 0 c rest = .error .txFull := rfl

theorem emitSym_succ (room : Nat) (c : Byte) (rest : Nat → Except Err Text) :
    emitSym (room + 1) c rest = (rest room).map (c :: ·) := by
  rw [emitSym]
  cases rest room <;> rfl

/-- `D` takes the code of each index in `idx` off its input and appends the index's symbol. -/
def TakesCodes {α ι : Type} (D : List α → Nat → Except Err Text) (code : ι → List α) (sym : ι → Byte) (idx : List ι) :
    Prop :=
  ∀ i ∈ idx, ∀ rest room, D (code i ++ rest) room = emitSym room (sym i) (D rest)

namespace TakesCodes

variable {α ι : Type} {D : List α → Nat → Except Err Text} {code : ι → List α} {sym : ι → Byte} {idx : List ι}
  (h : TakesCodes D code sym idx)
include h

/-- With room for their symbols the codes give them, and then what follows decodes. -/
theorem decode_of_le {room : Nat} (hroom : idx.length ≤ room) (rest : List α) :
    D (idx.flatMap code ++ rest) room = (D rest (room - idx.length)).map (idx.map sym ++ ·) := by
  induction idx generalizing room with
  | nil => cases h : D rest room <;> simp [h, Except.map]
  | cons i is ih =>
    obtain ⟨r, rfl⟩ := Nat.exists_eq_add_of_le' (Nat.one_le_of_lt hroom)
    rw [List.flatMap_cons, List.append_assoc, h i List.mem_cons_self, emitSym_succ,
      ih (fun j hj => h j (List.mem_cons_of_mem i hj)) (Nat.le_of_succ_le_succ hroom), List.length_cons,
      Nat.add_sub_add_right]
    cases D rest (r - is.length) <;> rfl

/-- More codes than room are TX_FULL, whatever follows. -/
theorem decode_of_lt {room : Nat} (hroom : room < idx.length) (rest : List α) :
    D (idx.flatMap code ++ rest) room = .error .txFull := by
  induction idx generalizing room with
  | nil => cases hroom
  | cons i is ih =>
    rw [List.flatMap_cons, List.append_assoc, h i List.mem_cons_self]
    cases room with
    | zero => rfl
    | succ room =>
      rw [emitSym_succ, ih (fun j hj => h j (List.mem_cons_of_mem i hj)) (Nat.lt_of_succ_lt_succ hroom)]
      rfl

/-- Codes to the end of the input, where the decode ends well. -/
theorem decode_all {room : Nat} (hroom : idx.length ≤ room) (hend : ∀ r, D [] r = .ok []) :
    D (idx.flatMap code) room = .ok (idx.map sym) := by
  have := h.decode_of_le hroom []
  rw [List.append_nil, hend] at this
  simpa [Except.map] using this

/-- Codes and then an input on which the decode fails. -/
theorem decode_error {room : Nat} (hroom : idx.length ≤ room) {rest : List α} {e : Err}
    (herr : ∀ r, D rest r = .error e) : D (idx.flatMap code ++ rest) room = .error e := by
  rw [h.decode_of_le hroom, herr]
  rfl

end TakesCodes

/-! ### Groups of bits -/

/-- Fields of one width are a whole number of groups, and the groups are the fields. -/
theorem bitGroups_blockBits {w : Nat} (hw : w ≠ 0) (vs : List Nat) :
    (blockBits w vs).length % w = 0 ∧
      bitGroups w ((blockBits w vs).length / w) (blockBits w vs) = vs.map (fun v => uBits v w) := by
  rw [blockBits, flatMap_uBits_length, Nat.mul_mod_left, Nat.mul_div_cancel _ (Nat.pos_of_ne_zero hw)]
  exact ⟨rfl, bitGroups_flatMap_uBits w vs⟩

theorem flatMap_singleton_eq_map {α β : Type} (f : α → β) (l : List α) : l.flatMap (fun x => [f x]) = l.map f := by
  induction l with
  | nil => rfl
  | cons x xs ih => rw [List.flatMap_cons, ih]; rfl

/-! ### FIXED -/

theorem textBits_eq_blockBits (x : Text) : textBits x = blockBits 8 (x.map BitVec.toNat) := by
  rw [blockBits, List.flatMap_map]
  rfl

theorem decodeFixed_textBits (tcap : Nat) (x : Text) :
    decodeFixed tcap (textBits x) = decodeGroups fixedSym (x.flatMap fun c => [uBits c.toNat 8]) tcap := by
  obtain ⟨hlen, hgroups⟩ := bitGroups_blockBits (w := 8) (by decide) (x.map BitVec.toNat)
  rw [textBits_eq_blockBits, decodeFixed, if_neg (not_not.mpr hlen), hgroups, List.map_map, flatMap_singleton_eq_map]
  rfl

theorem takesCodes_fixed (x : Text) : TakesCodes (decodeGroups fixedSym) (fun c => [uBits c.toNat 8]) id x := by
  intro c _ rest room
  simp only [List.singleton_append, decodeGroups, fixedSym, uVal_uBits c.isLt, BitVec.ofNat_toNat, BitVec.setWidth_eq, id]

theorem decodeFixed_of_le {tcap : Nat} {x : Text} (h : x.length ≤ tcap) : decodeFixed tcap (textBits x) = .ok x := by
  rw [decodeFixed_textBits, (takesCodes_fixed x).decode_all h fun _ => rfl, List.map_id]

theorem decodeFixed_of_lt {tcap : Nat} {x : Text} (h : tcap < x.length) :
    decodeFixed tcap (textBits x) = .error .txFull := by
  have := (takesCodes_fixed x).decode_of_lt h []
  rwa [List.append_nil, ← decodeFixed_textBits] at this

/-! ### BLOCK -/

theorem size_le_two_pow_blockWidth (t : Table) : t.size ≤ 2 ^ blockWidth t :=
  (le_two_pow_clog2 _).trans (Nat.pow_le_pow_right (by decide) (le_max_right _ _))

theorem blockWidth_ne_zero (t : Table) : blockWidth t ≠ 0 :=
  (zero_lt_one.trans_le (le_max_left 1 _)).ne'

theorem decodeBlock_blockBits (t : Table) (tcap : Nat) (vs : List Nat) :
    decodeBlock t tcap (blockBits (blockWidth t) vs) =
      decodeGroups (blockSym t) (vs.flatMap fun v => [uBits v (blockWidth t)]) tcap := by
  obtain ⟨hlen, hgroups⟩ := bitGroups_blockBits (blockWidth_ne_zero t) vs
  rw [decodeBlock, if_neg (not_not.mpr hlen), hgroups, flatMap_singleton_eq_map]

section
variable {t : Table} {idx : List Nat} (hidx : ∀ i ∈ idx, i < t.size)
include hidx

theorem takesCodes_block :
    TakesCodes (decodeGroups (blockSym t)) (fun i => [uBits i (blockWidth t)]) t.symAt idx := by
  intro i hi rest room
  have hval := uVal_uBits ((hidx i hi).trans_le (size_le_two_pow_blockWidth t))
  simp only [List.singleton_append, decodeGroups, blockSym, hval, if_neg (Nat.not_le.mpr (hidx i hi))]

theorem decodeBlock_of_le {tcap : Nat} (h : idx.length ≤ tcap) :
    decodeBlock t tcap (blockBits (blockWidth t) idx) = .ok (idx.map t.symAt) := by
  rw [decodeBlock_blockBits]
  exact (takesCodes_block hidx).decode_all h fun _ => rfl

theorem decodeBlock_of_lt {tcap : Nat} (h : tcap < idx.length) (rest : List Nat) :
    decodeBlock t tcap (blockBits (blockWidth t) (idx ++ rest)) = .error .txFull := by
  rw [decodeBlock_blockBits, List.flatMap_append]
  exact (takesCodes_block hidx).decode_of_lt h _

theorem decodeBlock_of_index_ge {tcap k : Nat} (h : idx.length ≤ tcap) (hk : t.size ≤ k)
    (hlt : k < 2 ^ blockWidth t) (rest : List Nat) :
    decodeBlock t tcap (blockBits (blockWidth t) (idx ++ k :: rest)) = .error .codeRange := by
  rw [decodeBlock_blockBits, List.flatMap_append]
  refine (takesCodes_block hidx).decode_error h fun r => ?_
  simp only [List.flatMap_cons, List.singleton_append, decodeGroups, blockSym, uVal_uBits hlt, if_pos hk]

end

/-- Settles O42: the group test, and then the stream is a list of groups whose symbols are taken one by one. -/
theorem fixedAndBlockDecodersComplete : Obligations.FixedAndBlockDecodersComplete := by
  rintro s a b _ hmem ha hb rfl
  have htx := lt_tx_length hmem ha
  obtain ⟨hok, herr⟩ := exec_decodes (i := .decFixed a b) htx (ruleDecFixed_eq ha hb)
  refine ⟨fun hlen => herr _ (if_pos hlen), fun x hx => ⟨fun hfits => hok x ?_, fun hfull => herr _ ?_⟩,
    fun hvalid => ?block⟩
  · rw [hx]
    exact decodeFixed_of_le hfits
  · rw [hx]
    exact decodeFixed_of_lt hfull
  case block =>
    obtain ⟨hok, herr⟩ := exec_decodes (i := .decBlock a b) htx (ruleDecBlock_eq ha hb hvalid)
    refine ⟨fun hlen => herr _ (if_pos hlen), fun idx hidx hbits hfits => hok _ ?_,
      fun idx rest hidx hfull hbits => herr _ ?_, fun idx rest k hidx hfits hk hlt hbits => herr _ ?_⟩
    · rw [hbits]
      exact decodeBlock_of_le hidx hfits
    · rw [hbits]
      exact decodeBlock_of_lt hidx hfull rest
    · rw [hbits]
      exact decodeBlock_of_index_ge hidx hfits hk hlt rest

/-! ### A decode after an encode -/

section
variable {i : Instr} {s t : State}

theorem exec_ok (h : exec i s = .next t) (herr : t.status.err = 0) : ∃ u, ruleOf i s = .ok u ∧ t = complete none u := by
  rw [exec_eq_finish] at h
  obtain h | ⟨e, -, rfl⟩ := finish_cases h
  · exact h
  · exact absurd herr (errKind_ne_zero e)

theorem exec_decode_gives {d : BufIdx} {out : Except Err Text} {x : Text} (hd : d.toNat < t.mem.tx.length)
    (hrule : ruleOf i t = storeText d out t) (hout : out = .ok x) :
    ∃ u, exec i t = .next u ∧ CompletedOk t u ∧ u.mem.getTx d = x := by
  obtain ⟨u, hexec, hwritten, hx⟩ := (exec_decodes hd hrule).1 x hout
  exact ⟨u, hexec, hwritten.ok, hx⟩

theorem exec_decode_fails {d : BufIdx} {out : Except Err Text} {e : Err} (hd : d.toNat < t.mem.tx.length)
    (hrule : ruleOf i t = storeText d out t) (hout : out = .error e) : ∃ u, exec i t = .next u ∧ CompletedWith e t u :=
  (exec_decodes hd hrule).2 e hout

end

/-- Settles O44: the decoder finds the encoder's stream, whose symbols fit a text buffer as the text did. -/
theorem fixedAndBlockRoundTrip : Obligations.FixedAndBlockRoundTrip := by
  intro s t a b d hs hd herr
  have htx := lt_tx_length hs.buffers hd
  have hroom := getTx_length_le hs.buffers b
  constructor
  · intro h
    obtain ⟨u, hu, rfl⟩ := exec_ok h herr
    obtain ⟨ha, -, -, rfl⟩ := ruleEncFixed_ok_iff.mp hu
    have hbits := getBs_setBs_same s.mem a (textBits (s.mem.getTx b)) (lt_bs_length hs.buffers ha)
    exact exec_decode_gives htx (ruleDecFixed_eq hd ha)
      ((congrArg (decodeFixed s.cap.tcap) hbits).trans (decodeFixed_of_le hroom))
  · intro h
    obtain ⟨u, hu, rfl⟩ := exec_ok h herr
    obtain ⟨ha, -, hvalid, idx, hidx, -, rfl⟩ := ruleEncBlock_ok_iff.mp hu
    obtain ⟨hlt, hsym⟩ := lookupAll_symAt hidx
    have hbits := getBs_setBs_same s.mem a (blockBits (blockWidth s.table) idx) (lt_bs_length hs.buffers ha)
    refine exec_decode_gives htx (ruleDecBlock_eq hd ha hvalid)
      ((congrArg (decodeBlock s.table s.cap.tcap) hbits).trans ?_)
    rw [← hsym]
    exact decodeBlock_of_le hlt (by rwa [lookupAll_length hidx])

end Sys2Proof.Machine
end

section
/-! PROOFS. The HUF decoder (45_huffman.md R201): a code walks the tree from the root to its leaf, a beginning of a code to
an internal node below the root. -/

namespace Sys2Proof.Machine

/-! ### Children have smaller ids than their node (R195) -/

theorem hufMerges_getD_lt {w : Nat → Nat} {m k : Nat} {ls : List Nat} {q : List (Nat × Nat)}
    (hq : ∀ x ∈ hufQueue ls q, x < k) (hk : 0 < k) (j : Nat) :
    ((hufMerges w m k ls q).getD j (0, 0)).1 < k + j ∧ ((hufMerges w m k ls q).getD j (0, 0)).2 < k + j := by
  induction m generalizing k ls q j with
  | zero => exact ⟨Nat.add_pos_left hk j, Nat.add_pos_left hk j⟩
  | succ m ih =>
    cases h : hufPick w ls q with
    | none =>
      simp only [hufMerges, h]
      exact ⟨Nat.add_pos_left hk j, Nat.add_pos_left hk j⟩
    | some c =>
      have hmem {x : Nat} := mem_hufQueue_of_hufPick h (x := x)
      rw [hufMerges_succ h]
      cases j with
      | zero => exact ⟨hq c.c0 (hmem.mpr (.inl rfl)), hq c.c1 (hmem.mpr (.inr (.inl rfl)))⟩
      | succ j =>
        have hrest : ∀ x ∈ hufQueue c.leaves (c.nodes ++ [(k, c.sum)]), x < k + 1 := by
          intro x hx
          rcases mem_hufQueue_push.mp hx with hx | rfl
          · exact (hq x (hmem.mpr (.inr (.inr hx)))).trans (Nat.lt_succ_self k)
          · exact Nat.lt_succ_self x
        have := ih hrest k.succ_pos j
        rw [List.getD_cons_succ]
        omega

theorem hufKid_lt {ws : List Nat} (hpos : 0 < ws.length) {x : Nat} (hx : ws.length ≤ x) (b : Bool) :
    hufKid ws.length (hufChildren ws) x b < x := by
  have hlt := hufMerges_getD_lt (w := fun i => ws.getD i 0) (m := ws.length - 1)
    (fun _ => (mem_hufQueue_initial (ws := ws)).mp) hpos (x - ws.length)
  rw [Nat.add_sub_cancel' hx] at hlt
  cases b
  · exact hlt.1
  · exact hlt.2

/-! ### The walk (R201) -/

theorem HufState.child_toNat (h : HufState) (x : BitVec 9) (b : Bool) :
    (h.child x b).toNat = ((if b then h.c1 else h.c0).toList.getD x.toNat 0).toNat := by
  have hx : x.toNat < 512 := x.isLt
  cases b <;> simp [HufState.child, List.getD, hx]

section
variable {t : Table} (hsize : t.size ≤ 256)
include hsize

theorem hufBuild_child_toNat {x : BitVec 9} (hx : t.size ≤ x.toNat) (b : Bool) :
    ((hufBuild t).child x b).toNat = hufKid t.size (hufChildren t.weights) x.toNat b := by
  rw [HufState.child_toNat, hufBuild_child hsize hx]

theorem hufWalk_to_leaf {x : BitVec 9} (hx : t.size ≤ x.toNat) {b : Bool}
    (hleaf : hufKid t.size (hufChildren t.weights) x.toNat b < t.size) (bs : BitSeq) (room : Nat) :
    hufWalk (hufBuild t) t (b :: bs) x room =
      emitSym room (t.symAt (hufKid t.size (hufChildren t.weights) x.toNat b))
        (hufWalk (hufBuild t) t bs (hufBuild t).root) := by
  have hkid := hufBuild_child_toNat hsize hx b
  rw [hufWalk, if_pos (by rwa [BitVec.lt_def, hkid, hufBuild_n hsize]), hkid]

theorem hufWalk_to_node {x : BitVec 9} (hx : t.size ≤ x.toNat) {b : Bool}
    (hnode : t.size ≤ hufKid t.size (hufChildren t.weights) x.toNat b) (bs : BitSeq) (room : Nat) :
    hufWalk (hufBuild t) t (b :: bs) x room = hufWalk (hufBuild t) t bs ((hufBuild t).child x b) room := by
  have hkid := hufBuild_child_toNat hsize hx b
  rw [hufWalk, if_neg (by rwa [BitVec.lt_def, hkid, hufBuild_n hsize, Nat.not_lt])]

/-- A path to a leaf, walked from its node, gives the leaf's symbol. -/
theorem hufWalk_of_leads {p : BitSeq} (hp : p ≠ []) {x : BitVec 9} {i : Nat}
    (h : HufLeads t.size (hufChildren t.weights) x.toNat p i) (rest : BitSeq) (room : Nat) :
    hufWalk (hufBuild t) t (p ++ rest) x room =
      emitSym room (t.symAt i) (hufWalk (hufBuild t) t rest (hufBuild t).root) := by
  induction p generalizing x with
  | nil => exact absurd rfl hp
  | cons b p ih =>
    obtain ⟨hx, hkid⟩ := h
    cases p with
    | nil =>
      obtain ⟨hleaf, rfl⟩ := hkid
      exact hufWalk_to_leaf hsize hx hleaf rest room
    | cons b' p =>
      rw [List.cons_append, hufWalk_to_node hsize hx hkid.1]
      exact ih (List.cons_ne_nil b' p) (hufBuild_child_toNat hsize hx b ▸ hkid)

/-- A path that is cut short ends below the root, for ids fall along it. -/
theorem hufWalk_of_cut (hpos : 0 < t.size) {p q : BitSeq} (hq : q ≠ []) {x : BitVec 9} {i : Nat}
    (h : HufLeads t.size (hufChildren t.weights) x.toNat (p ++ q) i) (hle : x.toNat ≤ (hufBuild t).root.toNat)
    (hlt : p = [] → x.toNat < (hufBuild t).root.toNat) (room : Nat) :
    hufWalk (hufBuild t) t p x room = .error .notAtRoot := by
  induction p generalizing x with
  | nil => exact if_neg fun hroot => (hlt rfl).ne (congrArg BitVec.toNat hroot)
  | cons b p ih =>
    obtain ⟨hx, (hkid : HufLeads _ _ _ (p ++ q) i)⟩ := h
    have hnode : t.size ≤ hufKid t.size (hufChildren t.weights) x.toNat b := by
      obtain ⟨c, r, hr⟩ := List.exists_cons_of_ne_nil (List.append_ne_nil_of_right_ne_nil p hq)
      rw [hr] at hkid
      exact hkid.1
    have hchild := hufBuild_child_toNat hsize hx b
    have hfall := hufKid_lt (ws := t.weights) (by rwa [Table.weights_length hsize])
      ((Table.weights_length hsize).symm ▸ hx) b
    rw [Table.weights_length hsize, ← hchild] at hfall
    rw [hufWalk_to_node hsize hx hnode]
    exact ih (hchild ▸ hkid) (hfall.le.trans hle) fun _ => hfall.trans_le hle

end

/-! ### The decode function (R201) -/

section
variable {t : Table} (hsize : t.size ≤ 256)
include hsize

theorem hufDecode_of_size_one (h : t.size = 1) (tcap : Nat) (bits : BitSeq) :
    hufDecode (hufBuild t) t tcap bits = hufDecodeLeaf (t.symAt 0) bits tcap := by
  have hn : t.n = 1 := BitVec.eq_of_toNat_eq h
  rw [hufDecode, hufBuild_n hsize, if_pos hn]

theorem hufDecode_of_two_le (h : 2 ≤ t.size) (tcap : Nat) (bits : BitSeq) :
    hufDecode (hufBuild t) t tcap bits = hufWalk (hufBuild t) t bits (hufBuild t).root tcap := by
  have hn : t.n ≠ 1 := fun hn => by
    rw [Table.size, hn] at h
    exact absurd h (by decide)
  rw [hufDecode, hufBuild_n hsize, if_neg hn]

/-- A code is the path from the root to its symbol's leaf, and not empty. -/
theorem hufCodes_root_leads (h : 2 ≤ t.size) {i : Nat} (hi : i < t.size) :
    (hufCodes t.weights).getD i [] ≠ [] ∧
      HufLeads t.size (hufChildren t.weights) (hufBuild t).root.toNat ((hufCodes t.weights).getD i []) i := by
  have hlead := (hufCodes_leads ((Table.weights_length hsize).symm ▸ h) ((Table.weights_length hsize).symm ▸ hi)).2
  rw [Table.weights_length hsize, ← hufBuild_root hsize] at hlead
  refine ⟨fun hnil => ?_, hlead⟩
  rw [hnil, hufBuild_root hsize, hufRoot, if_neg (by omega)] at hlead
  have := hlead.1
  omega

theorem hufDecode_nil (hpos : 1 ≤ t.size) (room : Nat) : hufDecode (hufBuild t) t room [] = .ok [] := by
  rcases hpos.eq_or_lt with h | h
  · rw [hufDecode_of_size_one hsize h.symm]
    rfl
  · rw [hufDecode_of_two_le hsize h]
    exact if_pos rfl

theorem takesCodes_huf {idx : List Nat} (hidx : ∀ i ∈ idx, i < t.size) :
    TakesCodes (fun bits room => hufDecode (hufBuild t) t room bits) (fun i => (hufCodes t.weights).getD i [])
      t.symAt idx := by
  intro i hi rest room
  have hi := hidx i hi
  by_cases h : 2 ≤ t.size
  · obtain ⟨hne, hlead⟩ := hufCodes_root_leads hsize h hi
    simp only [hufDecode_of_two_le hsize h]
    exact hufWalk_of_leads hsize hne hlead rest room
  · have hone : t.size = 1 := by omega
    obtain rfl : i = 0 := by omega
    simp only [hufDecode_of_size_one hsize hone, hufCodes_of_length_one ((Table.weights_length hsize).trans hone)]
    rfl

theorem hufDecode_of_cut (h : 2 ≤ t.size) {i : Nat} (hi : i < t.size) {tail : BitSeq} (hne : tail ≠ [])
    (hcut : tail <+: (hufCodes t.weights).getD i []) (hproper : tail ≠ (hufCodes t.weights).getD i []) (room : Nat) :
    hufDecode (hufBuild t) t room tail = .error .notAtRoot := by
  obtain ⟨q, hq⟩ := hcut
  obtain ⟨-, hlead⟩ := hufCodes_root_leads hsize h hi
  rw [hufDecode_of_two_le hsize h]
  refine hufWalk_of_cut hsize (by omega) (q := q) ?_ (hq ▸ hlead) le_rfl (fun hnil => absurd hnil hne) room
  rintro rfl
  exact hproper (by rwa [List.append_nil] at hq)

theorem hufDecode_leafBit (h : t.size = 1) (bits : BitSeq) (room : Nat) :
    hufDecode (hufBuild t) t room (true :: bits) = .error .leafBit := by
  rw [hufDecode_of_size_one hsize h]
  rfl

/-- With one symbol a run of codes is a run of zeros. -/
theorem replicate_false_eq_codes (h : t.size = 1) (k : Nat) :
    List.replicate k false = (List.replicate k 0).flatMap (fun i => (hufCodes t.weights).getD i []) := by
  rw [hufCodes_of_length_one ((Table.weights_length hsize).trans h)]
  induction k with
  | zero => rfl
  | succ k ih => rw [List.replicate_succ, List.replicate_succ, List.flatMap_cons, ← ih]; rfl

end

/-- Settles O45: the stream is a list of codes, each of which the decoder takes, and then what the statement lets follow. -/
theorem huffmanRoundTripAndErrors : Obligations.HuffmanRoundTripAndErrors := by
  intro s hs
  have hbuilt (h : s.valid.huf = true) : s.table.valid = true ∧ s.huf = hufBuild s.table := hs.derived.1 h
  refine ⟨fun t a b d hd h herr => ?roundTrip, fun a b k rest ha hb hvalid hone => ?one,
    fun a b idx tail ha hb hvalid htwo hidx hbits => ?many⟩
  case roundTrip =>
    obtain ⟨u, hu, rfl⟩ := exec_ok h herr
    obtain ⟨ha, -, htable, idx, hidx, -, rfl⟩ := ruleEncHuf_ok_iff.mp hu
    obtain ⟨hpos, hsize, -⟩ := hs.table htable
    obtain ⟨hlt, hsym⟩ := lookupAll_symAt hidx
    have htx := lt_tx_length hs.buffers hd
    have hbs := lt_bs_length hs.buffers ha
    refine exec_decode_gives htx (ruleDecHuf_eq hd ha htable rfl)
      ((congrArg (hufDecode (hufBuild s.table) s.table s.cap.tcap) (getBs_setBs_same _ _ _ hbs)).trans ?_)
    rw [hufEncode_hufBuild hsize, ← hsym]
    refine (takesCodes_huf hsize hlt).decode_all ?_ (hufDecode_nil hsize hpos)
    rw [lookupAll_length hidx]
    exact getTx_length_le hs.buffers b
  case one =>
    obtain ⟨htable, hhuf⟩ := hbuilt hvalid
    obtain ⟨hpos, hsize, -⟩ := hs.table htable
    obtain ⟨hok, herr⟩ := exec_decodes (i := .decHuf a b) (lt_tx_length hs.buffers ha) (ruleDecHuf_eq ha hb htable hvalid)
    have htakes : TakesCodes _ _ _ (List.replicate k 0) :=
      takesCodes_huf hsize fun i hi => (List.eq_of_mem_replicate hi).symm ▸ hpos
    rw [hhuf] at hok herr
    rw [replicate_false_eq_codes hsize hone]
    refine ⟨fun hbits hfits => hok _ ?_, fun hbits hfits => herr _ ?_, fun hbits hfull => herr _ ?_⟩
    · rw [hbits, ← List.map_replicate (f := s.table.symAt)]
      exact htakes.decode_all (by rwa [List.length_replicate]) (hufDecode_nil hsize hpos)
    · rw [hbits]
      exact htakes.decode_error (by rwa [List.length_replicate]) (hufDecode_leafBit hsize hone rest)
    · rw [hbits]
      exact htakes.decode_of_lt (by rwa [List.length_replicate]) rest
  case many =>
    obtain ⟨htable, hhuf⟩ := hbuilt hvalid
    obtain ⟨hpos, hsize, -⟩ := hs.table htable
    obtain ⟨hok, herr⟩ := exec_decodes (i := .decHuf a b) (lt_tx_length hs.buffers ha) (ruleDecHuf_eq ha hb htable hvalid)
    have htakes := takesCodes_huf hsize hidx
    rw [hhuf, hbits] at hok herr
    refine ⟨fun hnil hfits => hok _ ?_, fun hne hfits hcut => herr _ ?_, fun hfull => herr _ ?_⟩
    · rw [hnil, List.append_nil]
      exact htakes.decode_all hfits (hufDecode_nil hsize hpos)
    · obtain ⟨i, hi, hprefix, hproper⟩ := hcut
      exact htakes.decode_error hfits (hufDecode_of_cut hsize htwo hi hne hprefix hproper)
    · exact htakes.decode_of_lt hfull tail

end Sys2Proof.Machine
end

section
/-! PROOFS. The SF decoder (46_shannon_fano.md R217, R221): the candidates left are the symbols whose codewords begin with
the bits read, so a codeword leaves its symbol alone, a beginning of one leaves it among them, and anything else leaves
none. -/

namespace Sys2Proof.Machine

/-! ### The candidates that agree with the bits read -/

theorem SfState.codeword_length (st : SfState) (i : Nat) : (st.codeword i).length = st.lenAt i := uBits_length _ _

theorem sfAgrees_iff (st : SfState) (i : Nat) (read : BitSeq) :
    (decide (read.length ≤ st.lenAt i) && (st.codeword i).take read.length == read) = true ↔ read <+: st.codeword i := by
  rw [Bool.and_eq_true, decide_eq_true_iff, beq_iff_eq, List.prefix_iff_eq_take, eq_comm (a := read), and_iff_right_iff_imp,
    ← st.codeword_length]
  intro h
  rw [← h, List.length_take]
  exact min_le_right _ _

theorem mem_sfNarrow {st : SfState} {cand : List Nat} {read : BitSeq} {i : Nat} :
    i ∈ sfNarrow st cand read ↔ i ∈ cand ∧ read <+: st.codeword i := by
  rw [sfNarrow, List.mem_filter, sfAgrees_iff]

theorem sfNarrow_nil (st : SfState) (cand : List Nat) : sfNarrow st cand [] = cand :=
  List.filter_eq_self.mpr fun _ _ => (sfAgrees_iff ..).mpr List.nil_prefix

/-- Narrowing bit by bit is narrowing once. -/
theorem sfNarrow_sfNarrow (st : SfState) (cand : List Nat) (read more : BitSeq) :
    sfNarrow st (sfNarrow st cand read) (read ++ more) = sfNarrow st cand (read ++ more) := by
  rw [sfNarrow, sfNarrow, sfNarrow, List.filter_filter]
  refine List.filter_congr fun i _ => ?_
  rw [Bool.eq_iff_iff, Bool.and_eq_true, sfAgrees_iff, sfAgrees_iff, and_iff_left_iff_imp]
  exact (List.prefix_append read more).trans

/-! ### The elimination (R221) -/

/-- `i` is a symbol of the table with a codeword. -/
def SfCoded (t : Table) (i : Nat) : Prop := i < t.size ∧ 0 < t.weightAt i

/-- The decode with the bits `read` of a codeword behind it. -/
def sfResume (t : Table) (read bits : BitSeq) (room : Nat) : Except Err Text :=
  sfDecode (sfBuild t) t bits (sfNarrow (sfBuild t) (sfCandidates (sfBuild t) t) read) read room

theorem sfResume_nil (t : Table) (bits : BitSeq) (room : Nat) :
    sfResume t [] bits room = sfDecode (sfBuild t) t bits (sfCandidates (sfBuild t) t) [] room := by
  rw [sfResume, sfNarrow_nil]

section
variable {t : Table} (hv : t.valid = true) (hwf : t.wf)
include hv hwf

theorem mem_sfCandidates {i : Nat} : i ∈ sfCandidates (sfBuild t) t ↔ SfCoded t i := by
  rw [sfCandidates, List.mem_filter, mem_stableSortDesc, Table.weights_length (hwf hv).2.1, decide_eq_true_iff, SfCoded]
  refine and_congr_right fun hi => ⟨fun hlen => ?_, fun hw => ?_⟩
  · by_contra hw
    rw [sfBuild_lenAt_of_weight_zero hwf hv hi (Nat.eq_zero_of_not_pos hw)] at hlen
    exact lt_irrefl 0 hlen
  · rw [sfBuild_lenAt hwf hv hi hw]
    exact one_le_sfLength _ _

theorem exists_sfCoded : ∃ i, SfCoded t i := by
  obtain ⟨-, hsize, htotal, -⟩ := hwf hv
  by_contra hnone
  refine (total_pos hwf hv).ne' (htotal.trans ?_)
  rw [Table.weights_eq_map_range hsize]
  refine List.sum_eq_zero fun w hw => ?_
  obtain ⟨i, hi, rfl⟩ := List.mem_map.mp hw
  exact Nat.eq_zero_of_not_pos fun hpos => hnone ⟨i, List.mem_range.mp hi, hpos⟩

theorem sfBuild_codeword_eq_of_prefix {i j : Nat} (hi : SfCoded t i) (hj : SfCoded t j)
    (h : (sfBuild t).codeword i <+: (sfBuild t).codeword j) : i = j := by
  by_contra hij
  exact sfBuild_codeword_not_prefix hv hwf hi.1 hj.1 hij hi.2 hj.2 h

theorem sfBuild_codeword_ne_nil {i : Nat} (hi : SfCoded t i) : (sfBuild t).codeword i ≠ [] := by
  rw [← List.length_pos_iff, SfState.codeword_length, sfBuild_lenAt hwf hv hi.1 hi.2]
  exact one_le_sfLength _ _

theorem mem_agreeing {read : BitSeq} {i : Nat} :
    i ∈ sfNarrow (sfBuild t) (sfCandidates (sfBuild t) t) read ↔ SfCoded t i ∧ read <+: (sfBuild t).codeword i := by
  rw [mem_sfNarrow, mem_sfCandidates hv hwf]

/-- A whole codeword leaves its symbol alone. -/
theorem agreeing_codeword {i : Nat} (hi : SfCoded t i) :
    sfNarrow (sfBuild t) (sfCandidates (sfBuild t) t) ((sfBuild t).codeword i) = [i] := by
  refine List.perm_singleton.mp ((List.perm_ext_iff_of_nodup ?_ (List.nodup_singleton i)).mpr fun j => ?_)
  · exact ((stableSortDesc_nodup _).filter _).filter _
  · rw [mem_agreeing hv hwf, List.mem_singleton]
    constructor
    · rintro ⟨hj, hprefix⟩
      exact (sfBuild_codeword_eq_of_prefix hv hwf hi hj hprefix).symm
    · rintro rfl
      exact ⟨hi, List.prefix_rfl⟩

omit hv hwf in
theorem sfResume_of_none {read : BitSeq} {b : Bool}
    (h : sfNarrow (sfBuild t) (sfCandidates (sfBuild t) t) (read ++ [b]) = []) (bs : BitSeq) (room : Nat) :
    sfResume t read (b :: bs) room = .error .candidates := by
  simp only [sfResume, sfDecode, sfNarrow_sfNarrow, h]

omit hv hwf in
theorem sfResume_of_some {read : BitSeq} {b : Bool} {i : Nat} {rest : List Nat}
    (h : sfNarrow (sfBuild t) (sfCandidates (sfBuild t) t) (read ++ [b]) = i :: rest) (bs : BitSeq) (room : Nat) :
    sfResume t read (b :: bs) room =
      if rest = [] ∧ (sfBuild t).lenAt i = (read ++ [b]).length then emitSym room (t.symAt i) (sfResume t [] bs)
      else sfResume t (read ++ [b]) bs room := by
  have hstart : sfResume t [] bs = sfDecode (sfBuild t) t bs (sfCandidates (sfBuild t) t) [] :=
    funext (sfResume_nil t bs)
  rw [hstart]
  simp only [sfResume, sfDecode, sfNarrow_sfNarrow, h]

theorem sfResume_completes {read : BitSeq} {b : Bool} {i : Nat} (hi : SfCoded t i)
    (h : (sfBuild t).codeword i = read ++ [b]) (bs : BitSeq) (room : Nat) :
    sfResume t read (b :: bs) room = emitSym room (t.symAt i) (sfResume t [] bs) := by
  rw [sfResume_of_some (h ▸ agreeing_codeword hv hwf hi), ← h]
  exact if_pos ⟨rfl, ((sfBuild t).codeword_length i).symm⟩

theorem sfResume_continues {read : BitSeq} {b : Bool} (h : ∃ i, SfCoded t i ∧ read ++ [b] <+: (sfBuild t).codeword i)
    (hne : ∀ i, SfCoded t i → (sfBuild t).codeword i ≠ read ++ [b]) (bs : BitSeq) (room : Nat) :
    sfResume t read (b :: bs) room = sfResume t (read ++ [b]) bs room := by
  obtain ⟨i, hi⟩ := h
  obtain ⟨j, rest, hcand⟩ := List.exists_cons_of_ne_nil (List.ne_nil_of_mem ((mem_agreeing hv hwf).mpr hi))
  obtain ⟨hj, hprefix⟩ := (mem_agreeing hv hwf).mp (hcand ▸ List.mem_cons_self (a := j) (l := rest))
  have hlen : (sfBuild t).lenAt j ≠ (read ++ [b]).length := fun hlen =>
    hne j hj (hprefix.eq_of_length (hlen.symm.trans ((sfBuild t).codeword_length j).symm)).symm
  rw [sfResume_of_some hcand]
  exact if_neg fun h => hlen h.2

theorem sfResume_fails {read : BitSeq} {b : Bool} (h : ∀ i, SfCoded t i → ¬ read ++ [b] <+: (sfBuild t).codeword i)
    (bs : BitSeq) (room : Nat) : sfResume t read (b :: bs) room = .error .candidates := by
  have hnone : sfNarrow (sfBuild t) (sfCandidates (sfBuild t) t) (read ++ [b]) = [] :=
    List.eq_nil_iff_forall_not_mem.mpr fun i hi => h i ((mem_agreeing hv hwf).mp hi).1 ((mem_agreeing hv hwf).mp hi).2
  exact sfResume_of_none hnone bs room

/-- A proper beginning of a codeword is no codeword. -/
theorem sfResume_within {read : BitSeq} {b : Bool} {p : BitSeq} {i : Nat} (hi : SfCoded t i)
    (h : (sfBuild t).codeword i = read ++ b :: p) (hp : p ≠ []) (bs : BitSeq) (room : Nat) :
    sfResume t read (b :: bs) room = sfResume t (read ++ [b]) bs room := by
  have hsplit : (sfBuild t).codeword i = (read ++ [b]) ++ p := by rw [h, List.append_assoc, List.singleton_append]
  refine sfResume_continues hv hwf ⟨i, hi, hsplit ▸ List.prefix_append _ _⟩ (fun j hj hcode => hp ?_) bs room
  have hprefix : (sfBuild t).codeword j <+: (sfBuild t).codeword i := by rw [hcode, hsplit]; exact List.prefix_append _ _
  obtain rfl := sfBuild_codeword_eq_of_prefix hv hwf hj hi hprefix
  exact List.append_right_eq_self.mp (hsplit.symm.trans hcode)

theorem sfResume_codeword {p : BitSeq} (hp : p ≠ []) {read : BitSeq} {i : Nat} (hi : SfCoded t i)
    (h : (sfBuild t).codeword i = read ++ p) (rest : BitSeq) (room : Nat) :
    sfResume t read (p ++ rest) room = emitSym room (t.symAt i) (sfResume t [] rest) := by
  induction p generalizing read with
  | nil => exact absurd rfl hp
  | cons b p ih =>
    by_cases hlast : p = []
    · subst hlast
      exact sfResume_completes hv hwf hi h rest room
    · rw [List.cons_append, sfResume_within hv hwf hi h hlast]
      exact ih hlast (by rw [h, List.append_assoc, List.singleton_append])

theorem sfResume_cut {p q : BitSeq} (hq : q ≠ []) {read : BitSeq} {i : Nat} (hi : SfCoded t i)
    (h : (sfBuild t).codeword i = read ++ (p ++ q)) (hne : read ++ p ≠ []) (room : Nat) :
    sfResume t read p room = .error .formatLength := by
  induction p generalizing read with
  | nil =>
    rw [List.append_nil] at hne
    exact if_pos (mt List.length_eq_zero_iff.mp hne)
  | cons b p ih =>
    rw [sfResume_within hv hwf hi h (List.append_ne_nil_of_right_ne_nil p hq)]
    exact ih (by rw [h, List.append_assoc, List.singleton_append, List.cons_append]) (by simp)

/-- Bits that begin no codeword, and that no codeword begins, leave no candidate somewhere. -/
theorem sfResume_candidates {p read : BitSeq} (hread : ∃ i, SfCoded t i ∧ read <+: (sfBuild t).codeword i)
    (h : ∀ i, SfCoded t i → ¬ (sfBuild t).codeword i <+: read ++ p ∧ ¬ read ++ p <+: (sfBuild t).codeword i)
    (room : Nat) : sfResume t read p room = .error .candidates := by
  induction p generalizing read with
  | nil =>
    obtain ⟨i, hi, hprefix⟩ := hread
    exact absurd ((List.append_nil read).symm ▸ hprefix) (h i hi).2
  | cons b p ih =>
    have hsplit : read ++ b :: p = (read ++ [b]) ++ p := by rw [List.append_assoc, List.singleton_append]
    by_cases hnext : ∃ i, SfCoded t i ∧ read ++ [b] <+: (sfBuild t).codeword i
    · rw [sfResume_continues hv hwf hnext fun i hi hcode => (h i hi).1 (by rw [hcode, hsplit]; exact List.prefix_append _ _)]
      exact ih hnext (hsplit ▸ h)
    · exact sfResume_fails hv hwf (fun i hi hprefix => hnext ⟨i, hi, hprefix⟩) p room

theorem takesCodes_sf {idx : List Nat} (hidx : ∀ i ∈ idx, SfCoded t i) :
    TakesCodes (sfResume t []) (sfBuild t).codeword t.symAt idx := fun i hi rest room =>
  sfResume_codeword hv hwf (sfBuild_codeword_ne_nil hv hwf (hidx i hi)) (hidx i hi) rfl rest room

omit hv hwf in
theorem sfResume_end (room : Nat) : sfResume t [] [] room = .ok [] := rfl

end

theorem ruleDecSf_eq_resume {a b : BufIdx} {s : State} (ha : a.toNat < s.cap.ntb) (hb : b.toNat < s.cap.nbs)
    (htable : s.table.valid = true) (hbuilt : s.valid.sf = true) (hsf : s.sf = sfBuild s.table) :
    ruleDecSf a b s = storeText a (sfResume s.table [] (s.mem.getBs b) s.cap.tcap) s := by
  rw [ruleDecSf_eq ha hb htable hbuilt, hsf, sfResume_nil]

/-- Settles O46: the stream is a list of codewords, each of which the elimination ends at, and then what the statement lets
follow. -/
theorem shannonFanoRoundTripAndErrors : Obligations.ShannonFanoRoundTripAndErrors := by
  intro s hs
  refine ⟨fun t a b d hd h herr => ?roundTrip, fun a b idx tail ha hb hbuilt hidx hbits => ?stream⟩
  case roundTrip =>
    obtain ⟨u, hu, rfl⟩ := exec_ok h herr
    obtain ⟨ha, -, htable, idx, hidx, hcoded, -, rfl⟩ := ruleEncSf_ok_iff.mp hu
    obtain ⟨hlt, hsym⟩ := lookupAll_symAt hidx
    have hany := sfBuild_any_noCode hs.table htable hlt
    have hidxCoded : ∀ i ∈ idx, SfCoded s.table i := fun i hi =>
      ⟨hlt i hi, Nat.pos_of_ne_zero fun hw => Bool.eq_false_iff.mp hcoded (hany.mpr ⟨i, hi, hw⟩)⟩
    have htx := lt_tx_length hs.buffers hd
    have hbs := lt_bs_length hs.buffers ha
    refine exec_decode_gives htx (ruleDecSf_eq_resume hd ha htable rfl rfl)
      ((congrArg (sfResume s.table [] · s.cap.tcap) (getBs_setBs_same _ _ _ hbs)).trans ?_)
    rw [← hsym]
    refine (takesCodes_sf htable hs.table hidxCoded).decode_all ?_ sfResume_end
    rw [lookupAll_length hidx]
    exact getTx_length_le hs.buffers b
  case stream =>
    obtain ⟨htable, hsf⟩ := hs.derived.2.1 hbuilt
    obtain ⟨hok, herr⟩ := exec_decodes (i := .decSf a b) (lt_tx_length hs.buffers ha)
      (ruleDecSf_eq_resume ha hb htable hbuilt hsf)
    have htakes := takesCodes_sf htable hs.table hidx
    rw [hbits] at hok herr
    refine ⟨fun hnil hfits => hok _ ?_, fun hne hfits hcut => herr _ ?_, fun hfits hnone => herr _ ?_,
      fun hfull => herr _ ?_⟩
    · rw [hnil, List.append_nil]
      exact htakes.decode_all hfits sfResume_end
    · obtain ⟨i, hi, hw, ⟨q, hq⟩, hproper⟩ := hcut
      have hqne : q ≠ [] := by
        rintro rfl
        exact hproper (by rwa [List.append_nil] at hq)
      exact htakes.decode_error hfits (sfResume_cut htable hs.table hqne ⟨hi, hw⟩ hq.symm hne)
    · obtain ⟨i, hi⟩ := exists_sfCoded htable hs.table
      exact htakes.decode_error hfits
        (sfResume_candidates htable hs.table ⟨i, hi, List.nil_prefix⟩ fun j hj => hnone j hj.1 hj.2)
    · exact htakes.decode_of_lt hfull tail

end Sys2Proof.Machine
end

section
/-! PROOFS. The LZ77 codec (48_lz77.md R265 to R271): the decoder takes a stream token by token, and the tokens of the
encoder describe the text from its beginning on. -/

namespace Sys2Proof.Machine

/-! ### Copies (R271) -/

theorem lzCopy_of_lt {d l room : Nat} (h : room < l) (rev : Text) : lzCopy d l rev room = .error .txFull := by
  induction l generalizing rev room with
  | zero => cases h
  | succ l ih =>
    cases room with
    | zero => rfl
    | succ room => exact ih (Nat.lt_of_succ_lt_succ h) _

/-- The symbol `d` places back in an output that is held newest first. -/
theorem getD_reverse_back {x : Text} {d : Nat} (hd : 1 ≤ d) (hle : d ≤ x.length) :
    x[x.length - d]? = some (x.reverse.getD (d - 1) 0) := by
  have hlt : d - 1 < x.reverse.length := by rw [List.length_reverse]; omega
  rw [List.getD_eq_getElem _ _ hlt, List.getElem_reverse, List.getElem?_eq_getElem (by omega)]
  congr 2
  omega

/-- A copy that fits adds `l` symbols, each the one `d` places back, whether that was there before or is of the copy. -/
theorem lzCopy_of_le {d : Nat} (hd : 1 ≤ d) {l room : Nat} (hroom : l ≤ room) {x : Text} (hle : d ≤ x.length) :
    ∃ y, lzCopy d l x.reverse room = .ok ((x ++ y).reverse, room - l) ∧ y.length = l ∧
      ∀ j < l, (x ++ y)[x.length + j]? = (x ++ y)[x.length + j - d]? := by
  induction l generalizing room x with
  | zero => exact ⟨[], by rw [List.append_nil]; rfl, rfl, nofun⟩
  | succ l ih =>
    obtain ⟨room, rfl⟩ := Nat.exists_eq_add_of_le' (Nat.one_le_of_lt hroom)
    have hback := getD_reverse_back hd hle
    set c := x.reverse.getD (d - 1) 0
    obtain ⟨y, hcopy, hlen, hy⟩ := ih (Nat.le_of_succ_le_succ hroom) (x := x ++ [c]) (by simp; omega)
    have hsplit : x ++ c :: y = x ++ [c] ++ y := by rw [List.append_assoc, List.singleton_append]
    refine ⟨c :: y, ?_, by rw [List.length_cons, hlen], fun j hj => ?_⟩
    · rw [hsplit, Nat.add_sub_add_right, ← hcopy, List.reverse_append]
      rfl
    · cases j with
      | zero =>
        rw [Nat.add_zero, List.getElem?_append_right le_rfl, Nat.sub_self, List.getElem?_append_left (by omega), hback]
        rfl
      | succ j =>
        have := hy j (Nat.lt_of_succ_lt_succ hj)
        rwa [List.length_append, List.length_singleton, ← hsplit, Nat.add_right_comm, Nat.add_assoc] at this

/-- A copy from a text's beginning, where the text repeats, goes on along the text. -/
theorem lzCopy_take {z : Text} {d : Nat} (hd : 1 ≤ d) {l room pos : Nat} (hroom : l ≤ room) (hpos : d ≤ pos)
    (hlen : pos + l ≤ z.length) (hz : ∀ j < l, z[pos - d + j]? = z[pos + j]?) :
    lzCopy d l (z.take pos).reverse room = .ok ((z.take (pos + l)).reverse, room - l) := by
  induction l generalizing room pos with
  | zero => rfl
  | succ l ih =>
    obtain ⟨room, rfl⟩ := Nat.exists_eq_add_of_le' (Nat.one_le_of_lt hroom)
    have htake : (z.take pos).length = pos := List.length_take_of_le (by omega)
    have hsym : z[pos]? = some ((z.take pos).reverse.getD (d - 1) 0) := by
      rw [← getD_reverse_back hd (by omega), htake, List.getElem?_take_of_lt (by omega)]
      exact (hz 0 l.succ_pos).symm
    have hnext : (z.take pos).reverse.getD (d - 1) 0 :: (z.take pos).reverse = (z.take (pos + 1)).reverse := by
      rw [List.take_add_one, hsym, List.reverse_append]
      rfl
    rw [lzCopy, hnext, ih (Nat.le_of_succ_le_succ hroom) (by omega) (by omega) fun j hj => ?_,
      show pos + 1 + l = pos + (l + 1) by omega, Nat.add_sub_add_right]
    have := hz (j + 1) (Nat.succ_lt_succ hj)
    rwa [show pos + 1 - d + j = pos - d + (j + 1) by omega, show pos + 1 + j = pos + (j + 1) by omega]

/-! ### The loop without its fuel (R271) -/

/-- The decode loop with as many turns as there are bits. -/
def lzResume (t : Table) (w : LzWidths) (bits : BitSeq) (rev : Text) (room : Nat) : Except Err Text :=
  lzDecodeLoop t w bits.length bits rev room

section
variable {t : Table} {w : LzWidths}

theorem lzDecodeLoop_eq_resume {f : Nat} {bits : BitSeq} (h : bits.length ≤ f) (rev : Text) (room : Nat) :
    lzDecodeLoop t w f bits rev room = lzResume t w bits rev room := by
  induction f using Nat.strong_induction_on generalizing bits rev room with
  | _ f ih =>
    match f, bits with
    | 0, bits =>
      obtain rfl := List.eq_nil_of_length_eq_zero (Nat.le_zero.mp h)
      rfl
    | f + 1, [] => rfl
    | f + 1, b :: bs =>
      have hf : bs.length ≤ f := Nat.le_of_succ_le_succ h
      have hdrop (k : Nat) : (bs.drop k).length ≤ bs.length := by simp
      have hrest (k : Nat) (rev : Text) (room : Nat) :
          lzDecodeLoop t w f (bs.drop k) rev room = lzDecodeLoop t w bs.length (bs.drop k) rev room := by
        rw [ih f (Nat.lt_succ_self f) ((hdrop k).trans hf)]
        rcases hf.eq_or_lt with hf | hf
        · rw [hf, ih f (Nat.lt_succ_self f) (hf ▸ hdrop k)]
        · rw [ih bs.length (Nat.lt_succ_of_lt hf) (hdrop k)]
      rw [lzResume, List.length_cons]
      cases b
      · simp only [lzDecodeLoop, hrest]
      · simp only [lzDecodeLoop, hrest]

theorem lzResume_nil (rev : Text) (room : Nat) : lzResume t w [] rev room = .ok rev.reverse := rfl

theorem lzResume_true {bs : BitSeq} (h : w.distance + w.length ≤ bs.length) (rev : Text) (room : Nat) :
    lzResume t w (true :: bs) rev room =
      if rev.length < uVal (bs.take w.distance) + 1 then .error .distance
      else
        (lzCopy (uVal (bs.take w.distance) + 1) (uVal ((bs.drop w.distance).take w.length) + 1) rev room).bind
          fun r => lzResume t w (bs.drop (w.distance + w.length)) r.1 r.2 := by
  have hdrop : (bs.drop (w.distance + w.length)).length ≤ bs.length := by simp
  rw [lzResume, List.length_cons, lzDecodeLoop, if_neg (Nat.not_lt.mpr h)]
  simp only [lzDecodeLoop_eq_resume hdrop]
  cases lzCopy (uVal (bs.take w.distance) + 1) (uVal ((bs.drop w.distance).take w.length) + 1) rev room <;> rfl

theorem lzResume_false {bs : BitSeq} (h : w.symbol ≤ bs.length) (rev : Text) (room : Nat) :
    lzResume t w (false :: bs) rev room =
      if t.size ≤ uVal (bs.take w.symbol) then .error .codeRange
      else if room = 0 then .error .txFull
      else lzResume t w (bs.drop w.symbol) (t.symAt (uVal (bs.take w.symbol)) :: rev) (room - 1) := by
  have hdrop : (bs.drop w.symbol).length ≤ bs.length := by simp
  rw [lzResume, List.length_cons, lzDecodeLoop.eq_def]
  simp only [if_neg (Nat.not_lt.mpr h), lzDecodeLoop_eq_resume hdrop]
  cases room <;> rfl

theorem lzResume_true_short {bs : BitSeq} (h : bs.length < w.distance + w.length) (rev : Text) (room : Nat) :
    lzResume t w (true :: bs) rev room = .error .formatLength := by
  rw [lzResume, List.length_cons, lzDecodeLoop, if_pos h]

theorem lzResume_false_short {bs : BitSeq} (h : bs.length < w.symbol) (rev : Text) (room : Nat) :
    lzResume t w (false :: bs) rev room = .error .formatLength := by
  rw [lzResume, List.length_cons, lzDecodeLoop.eq_def]
  exact if_pos h

/-- After a stream that decodes, the loop goes on with what follows. -/
theorem lzResume_append {pre : BitSeq} {rev : Text} {room : Nat} {out : Text}
    (h : lzResume t w pre rev room = .ok out) (tail : BitSeq) :
    lzResume t w (pre ++ tail) rev room = lzResume t w tail out.reverse (rev.length + room - out.length) := by
  induction hn : pre.length using Nat.strong_induction_on generalizing pre rev room with
  | _ n ih =>
    subst hn
    match pre with
    | [] =>
      cases h
      simp
    | true :: bs =>
      by_cases hshort : bs.length < w.distance + w.length
      · rw [lzResume_true_short hshort] at h
        cases h
      have hlen := Nat.le_of_not_lt hshort
      have hlen' : w.distance + w.length ≤ (bs ++ tail).length := by rw [List.length_append]; omega
      rw [lzResume_true hlen] at h
      rw [List.cons_append, lzResume_true hlen', List.take_append_of_le_length (by omega),
        List.drop_append_of_le_length (by omega), List.drop_append_of_le_length hlen,
        List.take_append_of_le_length (by rw [List.length_drop]; omega)]
      split at h
      · cases h
      rename_i hd
      rw [if_neg hd]
      cases hr : lzCopy (uVal (bs.take w.distance) + 1) (uVal ((bs.drop w.distance).take w.length) + 1) rev room with
      | error e =>
        rw [hr] at h
        cases h
      | ok r =>
        rw [hr] at h
        rw [← lzCopy_length_add_room hr]
        exact ih _ (by simp) h rfl
    | false :: bs =>
      by_cases hshort : bs.length < w.symbol
      · rw [lzResume_false_short hshort] at h
        cases h
      have hlen := Nat.le_of_not_lt hshort
      have hlen' : w.symbol ≤ (bs ++ tail).length := by rw [List.length_append]; omega
      rw [lzResume_false hlen] at h
      rw [List.cons_append, lzResume_false hlen', List.take_append_of_le_length hlen,
        List.drop_append_of_le_length hlen]
      split_ifs at h with hi hroom
      rw [if_neg hi, if_neg hroom]
      have := ih _ (by simp) h rfl
      rwa [List.length_cons, show rev.length + 1 + (room - 1) = rev.length + room by omega] at this

/-! ### One token (R267) -/

theorem lzTokenBits_copy_append (w : LzWidths) (d l : Nat) (rest : BitSeq) :
    lzTokenBits w (.copy d l) ++ rest =
      true :: (uBits (d - 1) w.distance ++ (uBits (l - 1) w.length ++ rest)) := by
  simp [lzTokenBits]

/-- A match's token is a copy, or reaches back too far. -/
theorem lzResume_copy {d l : Nat} (hd : 1 ≤ d) (hdw : d ≤ 2 ^ w.distance) (hl : 1 ≤ l) (hlw : l ≤ 2 ^ w.length)
    (rest : BitSeq) (rev : Text) (room : Nat) :
    lzResume t w (lzTokenBits w (.copy d l) ++ rest) rev room =
      if rev.length < d then .error .distance
      else (lzCopy d l rev room).bind fun r => lzResume t w rest r.1 r.2 := by
  have htake : (uBits (d - 1) w.distance ++ (uBits (l - 1) w.length ++ rest)).take w.distance =
      uBits (d - 1) w.distance := List.take_left' (uBits_length ..)
  have hdrop : (uBits (d - 1) w.distance ++ (uBits (l - 1) w.length ++ rest)).drop w.distance =
      uBits (l - 1) w.length ++ rest := List.drop_left' (uBits_length ..)
  rw [lzTokenBits_copy_append, lzResume_true (by simp), htake, ← List.drop_drop, hdrop, List.take_left' (uBits_length ..),
    List.drop_left' (uBits_length ..), uVal_uBits (by omega), uVal_uBits (by omega), Nat.sub_add_cancel hd,
    Nat.sub_add_cancel hl]

theorem lzResume_literal {i : Nat} (hi : i < 2 ^ w.symbol) (rest : BitSeq) (rev : Text) (room : Nat) :
    lzResume t w (lzTokenBits w (.literal i) ++ rest) rev room =
      if t.size ≤ i then .error .codeRange
      else if room = 0 then .error .txFull
      else lzResume t w rest (t.symAt i :: rev) (room - 1) := by
  rw [lzTokenBits, List.cons_append, lzResume_false (by simp), List.take_left' (uBits_length ..),
    List.drop_left' (uBits_length ..), uVal_uBits hi]

end

/-! ### The match that is taken (R268) -/

theorem matchLen_spec (la : Nat) (xs ys : Text) :
    matchLen la xs ys ≤ la ∧ matchLen la xs ys ≤ ys.length ∧ ∀ j < matchLen la xs ys, xs[j]? = ys[j]? := by
  induction la generalizing xs ys with
  | zero => exact ⟨le_rfl, Nat.zero_le _, nofun⟩
  | succ la ih =>
    match xs, ys with
    | [], _ | _ :: _, [] => exact ⟨Nat.zero_le _, Nat.zero_le _, nofun⟩
    | x :: xs, y :: ys =>
      rw [matchLen]
      split
      · rename_i hxy
        obtain ⟨hla, hlen, heq⟩ := ih xs ys
        refine ⟨Nat.succ_le_succ hla, Nat.succ_le_succ hlen, fun j hj => ?_⟩
        cases j with
        | zero => rw [hxy]; rfl
        | succ j => exact heq j (Nat.lt_of_succ_lt_succ hj)
      · exact ⟨Nat.zero_le _, Nat.zero_le _, nofun⟩

/-- The match `m` is one that the window and the lookahead allow at `pos`. -/
structure LzMatchAt (text : Text) (win la pos : Nat) (m : Nat × Nat) : Prop where
  pos_distance : 1 ≤ m.1
  window       : m.1 ≤ win
  back         : m.1 ≤ pos
  lookahead    : m.2 ≤ la
  inText       : pos + m.2 ≤ text.length
  repeats      : ∀ j < m.2, text[pos - m.1 + j]? = text[pos + j]?

theorem lzMatchAt_matchLen {text : Text} {win pos d : Nat} (la : Nat) (hd : 1 ≤ d) (hwin : d ≤ win) (hback : d ≤ pos)
    (hpos : pos ≤ text.length) :
    LzMatchAt text win la pos (d, matchLen la (text.drop (pos - d)) (text.drop pos)) := by
  obtain ⟨hla, hlen, heq⟩ := matchLen_spec la (text.drop (pos - d)) (text.drop pos)
  rw [List.length_drop] at hlen
  refine ⟨hd, hwin, hback, hla, by dsimp only; omega, fun j hj => ?_⟩
  simpa using heq j hj

theorem bestMatch_isMatch {text : Text} {win la pos : Nat} (hpos : pos ≤ text.length) :
    (bestMatch text win la pos).2 = 0 ∨ LzMatchAt text win la pos (bestMatch text win la pos) := by
  unfold bestMatch
  refine List.foldlRecOn (motive := fun m => m.2 = 0 ∨ LzMatchAt text win la pos m) _ _ ?_ fun m hm j hj => ?_
  · exact .inl rfl
  have hj := List.mem_range.mp hj
  dsimp only
  split
  · exact .inr (lzMatchAt_matchLen la (Nat.le_add_left 1 j) (by omega) (by omega) hpos)
  · exact hm

/-! ### The encoder's tokens (R268, R270) -/

/-- From the beginning of the text that is decoded already, the tokens of the rest give the whole text. -/
theorem lzResume_tokens {t : Table} {text : Text} {idx : List Nat} (hidx : t.lookupAll text = some idx) (win la : Nat)
    {f pos room : Nat} (hpos : pos ≤ text.length) (hf : text.length ≤ pos + f) (hroom : text.length ≤ pos + room) :
    lzResume t (lzWidths t win la) ((lzTokens text idx win la f pos).flatMap (lzTokenBits (lzWidths t win la)))
      (text.take pos).reverse room = .ok text := by
  have hdone (h : text.length ≤ pos) : lzResume t (lzWidths t win la) [] (text.take pos).reverse room = .ok text := by
    rw [lzResume_nil, List.reverse_reverse, List.take_of_length_le h]
  induction f generalizing pos room with
  | zero => exact hdone hf
  | succ f ih =>
    rw [lzTokens]
    split
    · exact hdone ‹_›
    rename_i hmore
    dsimp only
    split
    · rename_i hthree
      obtain hzero | hmatch := bestMatch_isMatch (win := win) (la := la) hpos
      · omega
      set m := bestMatch text win la pos
      have hinText := hmatch.inText
      have hdist := hmatch.window.trans (le_two_pow_clog2 win)
      have hlen := hmatch.lookahead.trans (le_two_pow_clog2 la)
      rw [List.flatMap_cons, lzResume_copy hmatch.pos_distance hdist (by omega) hlen,
        if_neg (by simpa using ⟨hmatch.back, hmatch.back.trans hpos⟩),
        lzCopy_take hmatch.pos_distance (by omega) hmatch.back hinText hmatch.repeats]
      exact ih hinText (by omega) (by omega) fun h => by
        rw [lzResume_nil, List.reverse_reverse, List.take_of_length_le h]
    · obtain ⟨hlt, hsym⟩ := lookupAll_symAt hidx
      have hget : pos < idx.length := by rw [lookupAll_length hidx]; omega
      have hi : idx.getD pos 0 < t.size := by
        rw [List.getD_eq_getElem _ _ hget]
        exact hlt _ (List.getElem_mem hget)
      have htext : t.symAt (idx.getD pos 0) :: (text.take pos).reverse = (text.take (pos + 1)).reverse := by
        have hat : text[pos]? = some (t.symAt (idx.getD pos 0)) := by
          rw [← hsym, List.getElem?_map, List.getElem?_eq_getElem hget, List.getD_eq_getElem _ _ hget]
          rfl
        rw [List.take_add_one, hat, List.reverse_append]
        rfl
      rw [List.flatMap_cons, lzResume_literal (hi.trans_le (le_two_pow_clog2 t.size)), if_neg (Nat.not_le.mpr hi),
        if_neg (by omega), htext]
      exact ih (by omega) (by omega) (by omega) fun h => by
        rw [lzResume_nil, List.reverse_reverse, List.take_of_length_le h]

theorem lzDecode_lzEncode {t : Table} {text : Text} {idx : List Nat} (hidx : t.lookupAll text = some idx) {tcap : Nat}
    (h : text.length ≤ tcap) :
    lzDecode t (lzWindow text.length) (lzLookahead text.length) tcap (lzEncode t text idx) = .ok text :=
  lzResume_tokens hidx _ _ (pos := 0) (Nat.zero_le _) (Nat.le_add_left _ _) (by omega)

/-- After a stream that decodes to `x`, the decoder goes on with `x` written and the rest of the room. -/
theorem lzDecode_append {t : Table} {win la tcap : Nat} {pre : BitSeq} {x : Text}
    (h : lzDecode t win la tcap pre = .ok x) (tail : BitSeq) :
    lzDecode t win la tcap (pre ++ tail) = lzResume t (lzWidths t win la) tail x.reverse (tcap - x.length) := by
  have := lzResume_append h tail
  rwa [List.length_nil, Nat.zero_add] at this

/-- What the decoder does with a stream that goes on after one that decodes: its next turns decide. -/
theorem exec_decLz77_append {s t : State} {a b : BufIdx} {pre : BitSeq} (hmem : Memory.wf s.cap s.mem)
    (h : exec (.decLz77 a b) (s.putBs b pre) = .next t) (herr : t.status.err = 0) (tail : BitSeq) :
    let s' := s.putBs b (pre ++ tail)
    let more := lzResume s.table (lzWidths s.table s.lz77Window.toNat s.lz77Lookahead.toNat) tail
      (t.mem.getTx a).reverse (s.cap.tcap - (t.mem.getTx a).length)
    (t.mem.getTx a).length ≤ s.cap.tcap ∧
    (∀ y, more = .ok y → ∃ u, exec (.decLz77 a b) s' = .next u ∧ OneTextWritten a s' u ∧ u.mem.getTx a = y) ∧
    (∀ e, more = .error e → ∃ u, exec (.decLz77 a b) s' = .next u ∧ CompletedWith e s' u) := by
  obtain ⟨u, hu, rfl⟩ := exec_ok h herr
  obtain ⟨ha, hb, htable, hbuilt, x, hx, rfl⟩ := ruleDecLz77_ok_iff.mp hu
  have hbs := lt_bs_length hmem hb
  have htx := lt_tx_length hmem ha
  have hpre : (s.putBs b pre).mem.getBs b = pre := getBs_setBs_same s.mem b pre hbs
  have hout : (complete none ((s.putBs b pre).putTx a x)).mem.getTx a = x := getTx_setTx_same s.mem a x htx
  have hbits : (s.putBs b (pre ++ tail)).mem.getBs b = pre ++ tail := getBs_setBs_same s.mem b _ hbs
  rw [hpre] at hx
  rw [hout]
  have hends := exec_decodes (i := .decLz77 a b) (s := s.putBs b (pre ++ tail)) htx (ruleDecLz77_eq ha hb htable hbuilt)
  rw [hbits] at hends
  exact ⟨lzDecode_length_le hx, lzDecode_append hx tail ▸ hends⟩

/-- Settles O48: the encoder's tokens describe the text; and after a stream that decodes, the loop's next turn decides. -/
theorem lz77RoundTripAndErrors : Obligations.Lz77RoundTripAndErrors := by
  refine ⟨fun s t a b d hs hd h herr => ?roundTrip, ?tokens⟩
  case roundTrip =>
    obtain ⟨u, hu, rfl⟩ := exec_ok h herr
    obtain ⟨ha, -, htable, idx, hidx, -, rfl⟩ := ruleEncLz77_ok_iff.mp hu
    have htx := lt_tx_length hs.buffers hd
    have hbs := lt_bs_length hs.buffers ha
    have hlen := getTx_length_lt hs b
    have hwin := Nat.mod_eq_of_lt ((lzWindow_le (s.mem.getTx b).length).trans_lt hlen)
    have hla := Nat.mod_eq_of_lt ((lzLookahead_le (s.mem.getTx b).length).trans_lt hlen)
    refine exec_decode_gives htx (ruleDecLz77_eq hd ha htable rfl)
      ((congrArg (lzDecode s.table _ _ s.cap.tcap) (getBs_setBs_same _ _ _ hbs)).trans ?_)
    refine Eq.trans ?_ (lzDecode_lzEncode hidx (getTx_length_le hs.buffers b))
    exact congrArg₂ (fun win la => lzDecode s.table win la s.cap.tcap _) hwin hla
  case tokens =>
    rintro s s' t a b pre tail rest x symW distW lenW hmem h herr rfl rfl rfl rfl rfl
    obtain ⟨hroom, hok, hfail⟩ := exec_decLz77_append hmem h herr tail
    set x := t.mem.getTx a
    set w := lzWidths s.table s.lz77Window.toNat s.lz77Lookahead.toNat
    refine ⟨fun htail hshort => hfail _ ?_, fun htail hshort => hfail _ ?_, fun d l hd hdw hl hlw htail => ?copy,
      fun i hi htail => ?literal⟩
    · rw [htail]
      exact lzResume_true_short hshort _ _
    · rw [htail]
      exact lzResume_false_short hshort _ _
    case copy =>
      have hmore := lzResume_copy (t := s.table) (w := w) hd hdw hl hlw rest x.reverse (s.cap.tcap - x.length)
      rw [show lzTokenBits w (.copy d l) ++ rest = tail from (lzTokenBits_copy_append w d l rest).trans htail.symm,
        List.length_reverse] at hmore
      refine ⟨fun hfar => hfail _ (hmore.trans (if_pos hfar)), fun hnear hfull => hfail _ ?_, fun hnear hfits hrest => ?_⟩
      · rw [hmore, if_neg (Nat.not_lt.mpr hnear), lzCopy_of_lt (by omega)]
        rfl
      · obtain ⟨y, hcopy, hlen, hy⟩ := lzCopy_of_le (l := l) (room := s.cap.tcap - x.length) hd (by omega) hnear
        obtain ⟨u, hexec, hwritten, hgives⟩ := hok (x ++ y) (by
          rw [hmore, if_neg (Nat.not_lt.mpr hnear), hcopy, hrest]
          exact congrArg _ (List.reverse_reverse _))
        exact ⟨u, y, hexec, hwritten, hgives, hlen, hy⟩
    case literal =>
      have hmore := lzResume_literal (t := s.table) (w := w) hi rest x.reverse (s.cap.tcap - x.length)
      rw [show lzTokenBits w (.literal i) ++ rest = tail from htail.symm] at hmore
      refine ⟨fun hbeyond => hfail _ (hmore.trans (if_pos hbeyond)), fun (hlt : i < s.table.size) hfull => hfail _ ?_,
        fun (hlt : i < s.table.size) hfits hrest => hok _ ?_⟩
      · rw [hmore, if_neg (Nat.not_le.mpr hlt), if_pos (by omega)]
      · rw [hmore, if_neg (Nat.not_le.mpr hlt), if_neg (by omega), hrest, lzResume_nil, List.reverse_cons,
          List.reverse_reverse]

end Sys2Proof.Machine
end

section
/-! PROOFS. The LZW codec (49_lzw.md R285 to R291): the dictionary is a function of the strings decoded so far, the decoder
replays a list of codes string by string, and the encoder's codes stand for the message. -/

namespace Sys2Proof.Machine

/-! ### The dictionary (R285, R289) -/

/-- The entries made while the strings `es` are decoded: each string with the first byte of the next one. -/
def lzwEntries (es : List Text) : List Text :=
  (List.range (es.length - 1)).map fun m => es.getD m [] ++ (es.getD (m + 1) []).take 1

/-- The dictionary after the strings `es`: the alphabet and the entries made. -/
def lzwDict (t : Table) (es : List Text) : List Text := t.syms.map (fun c => [c]) ++ lzwEntries es

@[simp] theorem lzwEntries_length (es : List Text) : (lzwEntries es).length = es.length - 1 := by simp [lzwEntries]

theorem lzwEntries_getElem? {es : List Text} {m : Nat} (h : m + 1 < es.length) :
    (lzwEntries es)[m]? = some (es.getD m [] ++ (es.getD (m + 1) []).take 1) := by
  rw [lzwEntries, List.getElem?_map, List.getElem?_range (by omega)]
  rfl

theorem lzwEntries_concat (es : List Text) (p e : Text) :
    lzwEntries (es ++ [p] ++ [e]) = lzwEntries (es ++ [p]) ++ [p ++ e.take 1] := by
  have hlen : (es ++ [p]).length = es.length + 1 := by simp
  rw [lzwEntries, List.length_append, hlen, List.length_singleton, Nat.add_sub_cancel, List.range_succ, List.map_append,
    lzwEntries, hlen, Nat.add_sub_cancel]
  congr 1
  · refine List.map_congr_left fun m hm => ?_
    have hm := List.mem_range.mp hm
    rw [List.getD_append _ [e] _ m (by omega), List.getD_append _ [e] _ (m + 1) (by omega)]
  · rw [List.map_singleton, List.getD_append _ _ _ _ (by omega), List.getD_append_right _ _ _ _ le_rfl,
      List.getD_append_right _ _ _ _ (by omega), hlen, Nat.sub_self, Nat.sub_self]
    rfl

/-- Of the last string only the first byte is in an entry. -/
theorem lzwEntries_last {w w' : Text} (h : w.take 1 = w'.take 1) (es : List Text) :
    lzwEntries (es ++ [w]) = lzwEntries (es ++ [w']) := by
  rcases List.eq_nil_or_concat' es with rfl | ⟨es, p, rfl⟩
  · rfl
  · rw [lzwEntries_concat, lzwEntries_concat, h]

theorem lzwDict_nil (t : Table) : lzwDict t [] = t.syms.map (fun c => [c]) := List.append_nil _

theorem lzwDict_singleton (t : Table) (e : Text) : lzwDict t [e] = lzwDict t [] := rfl

theorem lzwDict_concat (t : Table) (es : List Text) (p e : Text) :
    lzwDict t (es ++ [p] ++ [e]) = lzwDict t (es ++ [p]) ++ [p ++ e.take 1] := by
  rw [lzwDict, lzwEntries_concat, ← List.append_assoc]
  rfl

section
variable {t : Table} (hsize : t.size ≤ 256)
include hsize

theorem Table.syms_length : t.syms.length = t.size := by simpa [Table.syms] using hsize

theorem lzwDict_length (es : List Text) : (lzwDict t es).length = t.size + (es.length - 1) := by
  simp [lzwDict, Table.syms_length hsize]

theorem lzwDict_of_lt {k : Nat} (hk : k < t.size) (es : List Text) : (lzwDict t es)[k]? = some [t.symAt k] := by
  have hk' : k < t.syms.length := by rwa [Table.syms_length hsize]
  rw [lzwDict, List.getElem?_append_left (by simpa using hk'), List.getElem?_map, List.getElem?_eq_getElem hk', Table.symAt,
    List.getD_eq_getElem _ _ hk']
  rfl

theorem lzwDict_of_ge {k : Nat} (hk : t.size ≤ k) (es : List Text) :
    (lzwDict t es)[k]? = (lzwEntries es)[k - t.size]? := by
  rw [lzwDict, List.getElem?_append_right (by simpa [Table.syms_length hsize] using hk), List.length_map,
    Table.syms_length hsize]

end

/-! ### The string of the next code (R289) -/

/-- After the strings `es`, the code `k` stands for the string `e`. -/
def LzwStandsFor (t : Table) (es : List Text) (k : Nat) (e : Text) : Prop :=
  (k < t.size ∧ e = [t.symAt k]) ∨
  (t.size ≤ k ∧ k + 1 < t.size + es.length ∧
    e = es.getD (k - t.size) [] ++ (es.getD (k - t.size + 1) []).take 1) ∨
  (1 ≤ es.length ∧ k + 1 = t.size + es.length ∧
    e = es.getD (es.length - 1) [] ++ (es.getD (es.length - 1) []).take 1)

/-- The strings of a list of codes, one by one. -/
theorem lzwStrings_iff {t : Table} {ks : List Nat} {es : List Text} :
    LzwStrings t ks es ↔
      es.length = ks.length ∧ ∀ j < ks.length, LzwStandsFor t (es.take j) (ks.getD j 0) (es.getD j []) := by
  refine and_congr_right fun hlen => forall_congr' fun j => imp_congr_right fun hj => ?_
  have htake : (es.take j).length = j := List.length_take_of_le (by omega)
  have hget {m : Nat} (hm : m < j) : (es.take j).getD m [] = es.getD m [] := by
    rw [List.getD_eq_getElem?_getD, List.getElem?_take_of_lt hm, ← List.getD_eq_getElem?_getD]
  rw [LzwStandsFor, htake]
  refine or_congr_right (or_congr ?_ ?_)
  · refine and_congr_right fun hk => and_congr_right fun hlt => ?_
    rw [hget (by omega), hget (by omega)]
  · refine and_congr_right fun h1 => and_congr_right fun _ => ?_
    rw [hget (by omega)]

theorem lzwStrings_concat {t : Table} {ks : List Nat} {es : List Text} {k : Nat} {e : Text} :
    LzwStrings t (ks ++ [k]) (es ++ [e]) ↔ LzwStrings t ks es ∧ LzwStandsFor t es k e := by
  rw [lzwStrings_iff, lzwStrings_iff, List.length_append, List.length_append, List.length_singleton,
    List.length_singleton, Nat.add_right_cancel_iff, and_assoc]
  refine and_congr_right fun hlen => ?_
  have hbefore {j : Nat} (hj : j < ks.length) :
      LzwStandsFor t ((es ++ [e]).take j) ((ks ++ [k]).getD j 0) ((es ++ [e]).getD j []) ↔
        LzwStandsFor t (es.take j) (ks.getD j 0) (es.getD j []) := by
    rw [List.take_append_of_le_length (by omega), List.getD_append _ _ _ _ hj, List.getD_append _ _ _ _ (by omega)]
  have hlast : LzwStandsFor t ((es ++ [e]).take ks.length) ((ks ++ [k]).getD ks.length 0) ((es ++ [e]).getD ks.length []) ↔
      LzwStandsFor t es k e := by
    rw [List.getD_append_right _ _ _ _ le_rfl, ← hlen, List.getD_append_right _ _ _ _ le_rfl, Nat.sub_self,
      List.take_left']
    · rfl
    · rfl
  constructor
  · intro h
    exact ⟨fun j hj => (hbefore hj).mp (h j (by omega)), hlast.mp (h ks.length (by omega))⟩
  · rintro ⟨h, hk⟩ j hj
    rcases (Nat.le_of_lt_succ hj).lt_or_eq with hj | rfl
    · exact (hbefore hj).mpr (h j hj)
    · exact hlast.mpr hk

/-- A list of codes with strings is empty, or one code after such a list. -/
theorem LzwStrings.cases_concat {t : Table} {ks : List Nat} {es : List Text} (h : LzwStrings t ks es) :
    (ks = [] ∧ es = []) ∨ ∃ ks' es' k e, ks = ks' ++ [k] ∧ es = es' ++ [e] ∧ LzwStrings t ks' es' ∧ LzwStandsFor t es' k e := by
  have hlen := h.1
  rcases List.eq_nil_or_concat' ks with rfl | ⟨ks', k, rfl⟩
  · exact .inl ⟨rfl, List.eq_nil_of_length_eq_zero hlen⟩
  · rcases List.eq_nil_or_concat' es with rfl | ⟨es', e, rfl⟩
    · simp at hlen
    · exact .inr ⟨ks', es', k, e, rfl, rfl, lzwStrings_concat.mp h⟩

theorem LzwStandsFor.lt {t : Table} {es : List Text} {k : Nat} {e : Text} (h : LzwStandsFor t es k e) :
    k < t.size + es.length := by
  rcases h with ⟨h, -⟩ | ⟨-, h, -⟩ | ⟨-, h, -⟩ <;> omega

theorem LzwStrings.lt {t : Table} {ks : List Nat} {es : List Text} (h : LzwStrings t ks es) {k : Nat} (hk : k ∈ ks) :
    k < t.size + (ks.length - 1) := by
  obtain ⟨hlen, hall⟩ := lzwStrings_iff.mp h
  obtain ⟨j, hj, rfl⟩ := List.getElem_of_mem hk
  have hstands := (hall j hj).lt
  rw [List.getD_eq_getElem _ _ hj, List.length_take_of_le (by omega)] at hstands
  omega

/-! ### The decoder replays the strings (R289) -/

theorem lzwExpand_known {dict : List Text} {k : Nat} {e : Text} (h : dict[k]? = some e) (prev : Option Text) :
    lzwExpand dict prev k = .ok e := by
  rw [lzwExpand.eq_def, h]

theorem lzwExpand_next (dict : List Text) (p : Text) : lzwExpand dict (some p) dict.length = .ok (p ++ p.take 1) := by
  rw [lzwExpand.eq_def, List.getElem?_eq_none le_rfl]
  exact if_pos rfl

theorem lzwExpand_beyond {dict : List Text} {prev : Option Text} {k : Nat} (h : dict.length ≤ k)
    (hprev : prev ≠ none → dict.length < k) : lzwExpand dict prev k = .error .codeRange := by
  rw [lzwExpand.eq_def, List.getElem?_eq_none h]
  cases prev with
  | none => rfl
  | some p => exact if_neg (hprev (Option.some_ne_none p)).ne'

theorem lzwExpand_ok {dict : List Text} {prev : Option Text} {k : Nat} {e : Text} (h : lzwExpand dict prev k = .ok e) :
    e ∈ dict ∨ ∃ p, prev = some p ∧ e = p ++ p.take 1 := by
  rw [lzwExpand.eq_def] at h
  split at h
  · cases h
    exact .inl (List.mem_of_getElem? ‹_›)
  · cases h
  · split_ifs at h
    cases h
    exact .inr ⟨_, rfl, rfl⟩

theorem lzwExpand_of_standsFor {t : Table} (hsize : t.size ≤ 256) {es : List Text} {k : Nat} {e : Text}
    (h : LzwStandsFor t es k e) : lzwExpand (lzwDict t es) es.getLast? k = .ok e := by
  rcases h with ⟨hk, rfl⟩ | ⟨hk, hlt, rfl⟩ | ⟨hpos, hk, rfl⟩
  · exact lzwExpand_known (lzwDict_of_lt hsize hk es) _
  · exact lzwExpand_known ((lzwDict_of_ge hsize hk es).trans (lzwEntries_getElem? (by omega))) _
  · have hlast : es.getLast? = some (es.getD (es.length - 1) []) := by
      rw [List.getLast?_eq_getElem?, List.getElem?_eq_getElem (by omega), List.getD_eq_getElem _ _ (by omega)]
    have hlimit : k = (lzwDict t es).length := by
      rw [lzwDict_length hsize]
      omega
    rw [hlast, hlimit, lzwExpand_next]

/-- The decode of the codes still to be read, after the strings `es`. -/
def lzwResume (t : Table) (ks : List Nat) (es : List Text) (room : Nat) : Except Err (Text × Nat) :=
  lzwReplay ks (lzwDict t es) es.getLast? room

/-- A code's string goes in front of what the rest of the codes gives. -/
def lzwPrepend (e : Text) (r : Except Err (Text × Nat)) : Except Err (Text × Nat) := r.map fun r => (e ++ r.1, r.2)

theorem lzwPrepend_lzwPrepend (x e : Text) (r : Except Err (Text × Nat)) :
    lzwPrepend x (lzwPrepend e r) = lzwPrepend (x ++ e) r := by
  cases r with
  | error _ => rfl
  | ok r => exact congrArg (fun y => Except.ok (y, r.2)) (List.append_assoc x e r.1).symm

section
variable {t : Table} (hsize : t.size ≤ 256)
include hsize

theorem lzwResume_cons {es : List Text} {k : Nat} {e : Text} (h : LzwStandsFor t es k e) (ks : List Nat) (room : Nat) :
    lzwResume t (k :: ks) es room =
      if room < e.length then .error .txFull else lzwPrepend e (lzwResume t ks (es ++ [e]) (room - e.length)) := by
  rw [lzwResume, lzwReplay, lzwExpand_of_standsFor hsize h, lzwResume, List.getLast?_concat]
  rcases List.eq_nil_or_concat' es with rfl | ⟨es, p, rfl⟩
  · rw [List.nil_append, lzwDict_singleton]
    dsimp only [List.getLast?_nil]
    cases lzwReplay ks (lzwDict t []) (some e) (room - e.length) <;> rfl
  · rw [lzwDict_concat, List.getLast?_concat]
    dsimp only
    cases lzwReplay ks (lzwDict t (es ++ [p]) ++ [p ++ e.take 1]) (some e) (room - e.length) <;> rfl

/-- Codes whose strings fit give the strings, and then the codes that follow are read. -/
theorem lzwResume_of_le {ks : List Nat} {es : List Text} (h : LzwStrings t ks es) {room : Nat}
    (hroom : es.flatten.length ≤ room) (more : List Nat) :
    lzwResume t (ks ++ more) [] room = lzwPrepend es.flatten (lzwResume t more es (room - es.flatten.length)) := by
  induction ks using List.reverseRecOn generalizing es more with
  | nil =>
    obtain rfl := List.eq_nil_of_length_eq_zero h.1
    rw [List.nil_append, List.flatten_nil, List.length_nil, Nat.sub_zero]
    cases lzwResume t more [] room <;> rfl
  | append_singleton ks k ih =>
    obtain ⟨hnil, -⟩ | ⟨ks', es', k', e, hks, rfl, hstrings, hstands⟩ := h.cases_concat
    · simp at hnil
    obtain ⟨rfl, rfl⟩ : ks = ks' ∧ k = k' := by simpa using hks
    rw [List.flatten_append, List.flatten_singleton, List.length_append] at hroom ⊢
    rw [List.append_assoc, List.singleton_append, ih hstrings (by omega), lzwResume_cons hsize hstands,
      if_neg (by omega), lzwPrepend_lzwPrepend, Nat.sub_sub]

/-- Codes whose strings do not fit are TX_FULL, whatever follows. -/
theorem lzwResume_of_lt {ks : List Nat} {es : List Text} (h : LzwStrings t ks es) {room : Nat}
    (hroom : room < es.flatten.length) (more : List Nat) : lzwResume t (ks ++ more) [] room = .error .txFull := by
  induction ks using List.reverseRecOn generalizing es more with
  | nil =>
    obtain rfl := List.eq_nil_of_length_eq_zero h.1
    cases hroom
  | append_singleton ks k ih =>
    obtain ⟨hnil, -⟩ | ⟨ks', es', k', e, hks, rfl, hstrings, hstands⟩ := h.cases_concat
    · simp at hnil
    obtain ⟨rfl, rfl⟩ : ks = ks' ∧ k = k' := by simpa using hks
    rw [List.append_assoc, List.singleton_append]
    by_cases hfits : es'.flatten.length ≤ room
    · rw [List.flatten_append, List.flatten_singleton, List.length_append] at hroom
      rw [lzwResume_of_le hsize hstrings hfits, lzwResume_cons hsize hstands, if_pos (by omega)]
      rfl
    · exact ih hstrings (Nat.lt_of_not_le hfits) _

theorem lzwResume_all {ks : List Nat} {es : List Text} (h : LzwStrings t ks es) {room : Nat}
    (hroom : es.flatten.length ≤ room) :
    lzwResume t ks [] room = .ok (es.flatten, t.size + (ks.length - 1)) := by
  have := lzwResume_of_le hsize h hroom []
  rw [List.append_nil] at this
  rw [this, lzwResume, lzwReplay, lzwDict_length hsize, h.1]
  exact congrArg (fun y => Except.ok (y, _)) (List.append_nil _)

/-- A code above its limit, after codes whose strings fit, is out of range. -/
theorem lzwResume_of_beyond {ks : List Nat} {es : List Text} (h : LzwStrings t ks es) {room : Nat}
    (hroom : es.flatten.length ≤ room) {k : Nat} (hk : t.size + (ks.length - 1) ≤ k)
    (hk' : ks ≠ [] → t.size + (ks.length - 1) < k) (more : List Nat) :
    lzwResume t (ks ++ k :: more) [] room = .error .codeRange := by
  have hlen := lzwDict_length hsize es
  rw [h.1] at hlen
  have hexpand : lzwExpand (lzwDict t es) es.getLast? k = .error .codeRange := by
    refine lzwExpand_beyond (hlen.trans_le hk) fun hprev => hlen.trans_lt (hk' ?_)
    rintro rfl
    rw [List.eq_nil_of_length_eq_zero h.1] at hprev
    exact hprev rfl
  rw [lzwResume_of_le hsize h hroom, lzwResume, lzwReplay, hexpand]
  rfl

end

/-! ### A code after a stream that decodes (R289) -/

theorem lzwReplay_append_codeRange {ks : List Nat} {dict : List Text} {prev : Option Text} {room : Nat}
    {r : Text × Nat} (h : lzwReplay ks dict prev room = .ok r) {k : Nat} (hk : r.2 < k) (more : List Nat) :
    lzwReplay (ks ++ k :: more) dict prev room = .error .codeRange := by
  induction ks generalizing dict prev room r with
  | nil =>
    cases h
    rw [List.nil_append, lzwReplay, lzwExpand_beyond (Nat.le_of_lt hk) fun _ => hk]
  | cons j js ih =>
    rw [lzwReplay] at h
    rw [List.cons_append, lzwReplay]
    cases hexpand : lzwExpand dict prev j with
    | error e =>
      rw [hexpand] at h
      cases h
    | ok e =>
      rw [hexpand] at h
      dsimp only at h ⊢
      split_ifs at h ⊢
      split at h
      · cases h
      · rename_i r' hr
        cases h
        rw [ih hr hk]

/-- Every code adds at least a byte to the output and at most an entry to the dictionary. -/
theorem lzwReplay_size_le {ks : List Nat} {dict : List Text} {prev : Option Text} {room : Nat} {r : Text × Nat}
    (hdict : ∀ e ∈ dict, e ≠ []) (hprev : ∀ p ∈ prev, p ≠ []) (h : lzwReplay ks dict prev room = .ok r) :
    r.2 ≤ dict.length + r.1.length := by
  induction ks generalizing dict prev room r with
  | nil =>
    cases h
    exact Nat.le_add_right _ _
  | cons k ks ih =>
    rw [lzwReplay] at h
    split at h
    · cases h
    rename_i e hexpand
    have he : e ≠ [] := by
      rcases lzwExpand_ok hexpand with he | ⟨p, hp, rfl⟩
      · exact hdict e he
      · exact List.append_ne_nil_of_left_ne_nil (hprev p hp) _
    have hpos := List.length_pos_iff.mpr he
    have hnext : ∀ p ∈ some e, p ≠ [] := fun p hp => Option.some.inj hp ▸ he
    split_ifs at h
    dsimp only at h
    split at h
    · cases h
    rename_i r' hr
    cases h
    rw [List.length_append]
    cases prev with
    | none =>
      have := ih hdict hnext hr
      dsimp only
      omega
    | some p =>
      have hgrown : ∀ x ∈ dict ++ [p ++ e.take 1], x ≠ [] := by
        intro x hx
        rcases List.mem_append.mp hx with hx | hx
        · exact hdict x hx
        · exact List.mem_singleton.mp hx ▸ List.append_ne_nil_of_left_ne_nil (hprev p rfl) _
      have := ih hgrown hnext hr
      rw [List.length_append, List.length_singleton] at this
      dsimp only
      omega

theorem lzwStrings_nil (t : Table) : LzwStrings t [] [] := ⟨rfl, fun _ hj => absurd hj (Nat.not_lt_zero _)⟩

/-! ### The encoder's trie (R285, R287) -/

theorem lzwChild_cons (trie : LzwTrie) (p q : Nat) (c d : Byte) (k : Nat) :
    lzwChild (((q, d), k) :: trie) p c = if q = p ∧ d = c then some k else lzwChild trie p c := by
  by_cases h : q = p ∧ d = c
  · simp [lzwChild, h]
  · have hne : (q == p && d == c) = false := by simpa using h
    rw [if_neg h, lzwChild, List.find?_cons_of_neg (by simp [hne]), lzwChild]

/-- The encoder after the codes `ks`, which stand for the strings `es`: the string `w` so far of the next code is that of
`cur`, and each child in the trie is the entry for its parent's string and its byte. -/
structure LzwEncoding (t : Table) (ks : List Nat) (es : List Text) (cur : Nat) (w : Text) (trie : LzwTrie) : Prop where
  strings    : LzwStrings t ks es
  nonempty   : ∀ e ∈ es, e ≠ []
  current_ne : w ≠ []
  current    : (lzwDict t (es ++ [w]))[cur]? = some w
  children   : ∀ p c k, lzwChild trie p c = some k →
    ∃ v, (lzwDict t (es ++ [w]))[p]? = some v ∧ (lzwDict t (es ++ [w]))[k]? = some (v ++ [c])

/-- A code found in the dictionary that its own string completes stands for the string. -/
theorem lzwStandsFor_of_dict {t : Table} (hsize : t.size ≤ 256) {es : List Text} {k : Nat} {w : Text}
    (hne : ∀ e ∈ es, e ≠ []) (h : (lzwDict t (es ++ [w]))[k]? = some w) : LzwStandsFor t es k w := by
  by_cases hk : k < t.size
  · rw [lzwDict_of_lt hsize hk] at h
    exact .inl ⟨hk, (Option.some.inj h).symm⟩
  have hk := Nat.le_of_not_lt hk
  rw [lzwDict_of_ge hsize hk] at h
  have hlt : k - t.size < es.length := by
    have := List.getElem?_eq_some_iff.mp h
    simpa using this.1
  rw [lzwEntries_getElem? (by simpa using hlt), List.getD_append _ _ _ _ hlt] at h
  have hw := Option.some.inj h
  by_cases hlast : k - t.size + 1 < es.length
  · rw [List.getD_append _ _ _ _ hlast] at hw
    exact .inr (.inl ⟨hk, by omega, hw.symm⟩)
  · obtain hm : k - t.size + 1 = es.length := by omega
    have hp : es.getD (k - t.size) [] ≠ [] := by
      rw [List.getD_eq_getElem _ _ hlt]
      exact hne _ (List.getElem_mem hlt)
    rw [hm, List.getD_append_right _ _ _ _ le_rfl, Nat.sub_self, List.getD_cons_zero] at hw
    have hfirst : w.take 1 = (es.getD (k - t.size) []).take 1 := by
      rw [← hw, List.take_append_of_le_length (List.length_pos_iff.mpr hp)]
    rw [hfirst] at hw
    refine .inr (.inr ⟨by omega, by omega, ?_⟩)
    rw [show es.length - 1 = k - t.size by omega]
    exact hw.symm

namespace LzwEncoding

variable {t : Table} {ks : List Nat} {es : List Text} {cur : Nat} {w : Text} {trie : LzwTrie}
  (h : LzwEncoding t ks es cur w trie)
include h

theorem dict_grown (c : Byte) : lzwDict t (es ++ [w ++ [c]]) = lzwDict t (es ++ [w]) := by
  have hfirst : (w ++ [c]).take 1 = w.take 1 := List.take_append_of_le_length (List.length_pos_iff.mpr h.current_ne)
  rw [lzwDict, lzwEntries_last hfirst, lzwDict]

/-- The byte leads to a child: the string grows. -/
theorem grow {c : Byte} {k : Nat} (hk : lzwChild trie cur c = some k) : LzwEncoding t ks es k (w ++ [c]) trie where
  strings := h.strings
  nonempty := h.nonempty
  current_ne := by simp
  current := by
    obtain ⟨v, hv, hgrown⟩ := h.children cur c k hk
    obtain rfl := Option.some.inj (h.current.symm.trans hv)
    rw [h.dict_grown, hgrown]
  children := by rw [h.dict_grown]; exact h.children

variable (hsize : t.size ≤ 256)
include hsize

theorem standsFor : LzwStandsFor t es cur w := lzwStandsFor_of_dict hsize h.nonempty h.current

/-- The byte leads to no child: the code is emitted, the trie gets an entry, and the next string begins. -/
theorem emit {c : Byte} {i : Nat} (hi : t.indexOf c = some i) :
    LzwEncoding t (ks ++ [cur]) (es ++ [w]) i [c] (((cur, c), t.size + ks.length) :: trie) := by
  obtain ⟨hlt, hsym⟩ := Table.indexOf_lt hi
  have hgrown : lzwDict t (es ++ [w] ++ [[c]]) = lzwDict t (es ++ [w]) ++ [w ++ [c]] := lzwDict_concat t es w [c]
  have hlen : (lzwDict t (es ++ [w])).length = t.size + ks.length := by
    rw [lzwDict_length hsize, ← h.strings.1]
    simp
  have hkeep {k : Nat} {v : Text} (hk : (lzwDict t (es ++ [w]))[k]? = some v) :
      (lzwDict t (es ++ [w]) ++ [w ++ [c]])[k]? = some v := by
    rw [List.getElem?_append_left (List.getElem?_eq_some_iff.mp hk).1, hk]
  refine ⟨lzwStrings_concat.mpr ⟨h.strings, h.standsFor hsize⟩, ?_, by simp, ?_, fun p d k hchild => ?_⟩
  · intro e he
    rcases List.mem_append.mp he with he | he
    · exact h.nonempty e he
    · exact List.mem_singleton.mp he ▸ h.current_ne
  · rw [lzwDict_of_lt hsize hlt, hsym]
  · rw [hgrown]
    rw [lzwChild_cons] at hchild
    split_ifs at hchild with hnew
    · obtain ⟨rfl, rfl⟩ := hnew
      cases hchild
      refine ⟨w, hkeep h.current, ?_⟩
      rw [← hlen, List.getElem?_append_right le_rfl, Nat.sub_self]
      rfl
    · obtain ⟨v, hp, hk⟩ := h.children p d k hchild
      exact ⟨v, hkeep hp, hkeep hk⟩

end LzwEncoding

/-- The codes of R287's loop stand for the string so far and the rest of the message. -/
theorem lzwLoop_strings {t : Table} (hsize : t.size ≤ 256) {msg : Text} {ks : List Nat} {es : List Text} {cur : Nat}
    {w : Text} {trie : LzwTrie} (hmsg : ∀ c ∈ msg, (t.indexOf c).isSome = true) (h : LzwEncoding t ks es cur w trie) :
    ∃ es', LzwStrings t (ks ++ (lzwLoop t msg cur trie (t.size + ks.length)).1) (es ++ es') ∧
      es'.flatten = w ++ msg ∧
      (lzwLoop t msg cur trie (t.size + ks.length)).2 + 1 =
        t.size + (ks ++ (lzwLoop t msg cur trie (t.size + ks.length)).1).length := by
  induction msg generalizing ks es cur w trie with
  | nil =>
    refine ⟨[w], lzwStrings_concat.mpr ⟨h.strings, h.standsFor hsize⟩, by simp, ?_⟩
    simp only [lzwLoop, List.length_append, List.length_singleton]
    omega
  | cons c cs ih =>
    obtain ⟨hc, hcs⟩ := List.forall_mem_cons.mp hmsg
    cases hchild : lzwChild trie cur c with
    | some k =>
      have hloop : lzwLoop t (c :: cs) cur trie (t.size + ks.length) = lzwLoop t cs k trie (t.size + ks.length) := by
        rw [lzwLoop, hchild]
      obtain ⟨es', hstrings, hflat, hfinal⟩ := ih hcs (h.grow hchild)
      rw [hloop]
      exact ⟨es', hstrings, by rw [hflat, List.append_assoc, List.singleton_append], hfinal⟩
    | none =>
      obtain ⟨i, hi⟩ := Option.isSome_iff_exists.mp hc
      have hlen : t.size + ks.length + 1 = t.size + (ks ++ [cur]).length := by simp; omega
      obtain ⟨es', hstrings, hflat, hfinal⟩ := ih hcs (h.emit hsize hi)
      rw [lzwLoop, hchild, hi, Option.getD_some, hlen]
      dsimp only
      rw [List.append_assoc, List.singleton_append] at hstrings hfinal
      exact ⟨w :: es', by rwa [List.append_assoc, List.singleton_append] at hstrings,
        by rw [List.flatten_cons, hflat, List.singleton_append], hfinal⟩

theorem indexOf_isSome_of_mem {t : Table} {msg : Text} {idx : List Nat} (h : t.lookupAll msg = some idx) {c : Byte}
    (hc : c ∈ msg) : (t.indexOf c).isSome = true := by
  by_contra hnone
  rw [lookupAll_eq_none hc (by simpa using hnone)] at h
  cases h

/-- The codes of a message stand for strings that make it up, and the final size counts the entries made. -/
theorem lzwCodes_strings {t : Table} (hsize : t.size ≤ 256) {msg : Text} {idx : List Nat}
    (hidx : t.lookupAll msg = some idx) :
    ∃ es, LzwStrings t (lzwCodes t msg).1 es ∧ es.flatten = msg ∧
      (lzwCodes t msg).2 = t.size + ((lzwCodes t msg).1.length - 1) := by
  cases msg with
  | nil => exact ⟨[], lzwStrings_nil t, rfl, rfl⟩
  | cons c cs =>
    obtain ⟨hc, hcs⟩ := List.forall_mem_cons.mp fun x hx => indexOf_isSome_of_mem hidx (c := x) hx
    obtain ⟨i, hi⟩ := Option.isSome_iff_exists.mp hc
    obtain ⟨hlt, hsym⟩ := Table.indexOf_lt hi
    have hstart : LzwEncoding t [] [] i [c] [] :=
      ⟨lzwStrings_nil t, nofun, by simp, by rw [lzwDict_of_lt hsize hlt, hsym], nofun⟩
    obtain ⟨es, hstrings, hflat, hfinal⟩ := lzwLoop_strings hsize hcs hstart
    rw [lzwCodes, hi, Option.getD_some]
    simp only [List.nil_append, List.length_nil, Nat.add_zero] at hstrings hfinal
    refine ⟨es, hstrings, hflat, ?_⟩
    have hpos : 1 ≤ (lzwLoop t cs i [] t.size).1.length := by
      rw [← hstrings.1]
      exact List.length_pos_iff.mpr (by rintro rfl; simp at hflat)
    omega

/-! ### The stream as a list of codes (R288, R289) -/

theorem uBits_uVal (g : BitSeq) : uBits (uVal g) g.length = g := by
  induction g with
  | nil => rfl
  | cons b bs ih =>
    have hlow : uVal (b :: bs) % 2 ^ bs.length = uVal bs := by
      rw [uVal_cons, Nat.mul_add_mod', Nat.mod_eq_of_lt (uVal_lt bs)]
    have htop : (uVal (b :: bs)).testBit bs.length = b := by
      rw [uVal_cons, Nat.mul_comm, Nat.testBit_two_pow_mul_add _ (uVal_lt bs), if_neg (lt_irrefl _), Nat.sub_self]
      cases b <;> rfl
    rw [List.length_cons, uBits, htop, ← uBits_mod_two_pow, hlow, ih]

/-- Bits that are a whole number of groups are a list of codes. -/
theorem exists_blockBits {w : Nat} {rest : BitSeq} (h : rest.length % w = 0) :
    ∃ vs, (∀ v ∈ vs, v < 2 ^ w) ∧ rest = blockBits w vs := by
  obtain ⟨n, hn⟩ := Nat.dvd_of_mod_eq_zero h
  induction n generalizing rest with
  | zero => exact ⟨[], nofun, List.eq_nil_of_length_eq_zero hn⟩
  | succ n ih =>
    rw [Nat.mul_succ] at hn
    have htake : (rest.take w).length = w := List.length_take_of_le (by omega)
    have hdrop : (rest.drop w).length = w * n := by rw [List.length_drop]; omega
    obtain ⟨vs, hvs, hrest⟩ := ih (rest := rest.drop w) (by rw [hdrop, Nat.mul_mod_right]) hdrop
    have hval := uBits_uVal (rest.take w)
    have hlt := uVal_lt (rest.take w)
    rw [htake] at hval hlt
    refine ⟨uVal (rest.take w) :: vs, List.forall_mem_cons.mpr ⟨hlt, hvs⟩, ?_⟩
    calc rest = rest.take w ++ rest.drop w := (List.take_append_drop w rest).symm
      _ = blockBits w (uVal (rest.take w) :: vs) := by rw [hrest, blockBits, blockBits, List.flatMap_cons, hval]

theorem lzwDecode_blockBits (t : Table) {w : Nat} (hw : w ≠ 0) (tcap : Nat) {vs : List Nat} (hvs : ∀ v ∈ vs, v < 2 ^ w) :
    lzwDecode t w tcap (blockBits w vs) = lzwResume t vs [] tcap := by
  obtain ⟨hlen, hgroups⟩ := bitGroups_blockBits hw vs
  have hvals : (vs.map fun v => uBits v w).map uVal = vs := by
    rw [List.map_map]
    exact (List.map_congr_left fun v hv => uVal_uBits (hvs v hv)).trans (List.map_id vs)
  rw [lzwDecode, if_neg hw, if_neg (not_not.mpr hlen), hgroups, hvals, lzwResume, lzwDict_nil, List.getLast?_nil]

theorem blockBits_append (w : Nat) (ks vs : List Nat) : blockBits w (ks ++ vs) = blockBits w ks ++ blockBits w vs :=
  List.flatMap_append

theorem lzwDecode_nil {t : Table} (hsize : t.size ≤ 256) (w tcap : Nat) : lzwDecode t w tcap [] = .ok ([], t.size) := by
  by_cases hw : w = 0
  · rw [lzwDecode, if_pos hw]
    rfl
  · exact (lzwDecode_blockBits t hw tcap (vs := []) (by simp)).trans
      (lzwResume_all hsize (lzwStrings_nil t) (Nat.zero_le _))

theorem lzwDecode_size_le {t : Table} (hsize : t.size ≤ 256) {w tcap : Nat} {bits : BitSeq} {r : Text × Nat}
    (h : lzwDecode t w tcap bits = .ok r) : r.2 ≤ t.size + tcap := by
  have hlen := lzwDecode_length_le h
  unfold lzwDecode at h
  split at h
  · split at h <;> cases h
    exact Nat.le_add_right _ _
  · split at h
    · cases h
    · rw [← lzwDict_nil] at h
      have := lzwReplay_size_le (by simp [lzwDict_nil]) (by simp) h
      rw [lzwDict_length hsize] at this
      simp only [List.length_nil] at this
      omega

/-- A code beyond the size a stream left is out of range after it. -/
theorem lzwDecode_append_codeRange {t : Table} {w tcap : Nat} (hw : w ≠ 0) {pre rest : BitSeq} {r : Text × Nat}
    (h : lzwDecode t w tcap pre = .ok r) {k : Nat} (hk : r.2 < k) (hkw : k < 2 ^ w) (hrest : rest.length % w = 0) :
    lzwDecode t w tcap (pre ++ (uBits k w ++ rest)) = .error .codeRange := by
  have hpre : pre.length % w = 0 := by
    by_contra hne
    rw [lzwDecode, if_neg hw, if_pos hne] at h
    cases h
  obtain ⟨ks, hks, rfl⟩ := exists_blockBits hpre
  obtain ⟨vs, hvs, rfl⟩ := exists_blockBits hrest
  rw [lzwDecode_blockBits t hw tcap hks] at h
  have hbits : blockBits w ks ++ (uBits k w ++ blockBits w vs) = blockBits w (ks ++ k :: vs) := by
    rw [blockBits_append]
    rfl
  rw [hbits, lzwDecode_blockBits t hw tcap
    (List.forall_mem_append.mpr ⟨hks, List.forall_mem_cons.mpr ⟨hkw, hvs⟩⟩)]
  exact lzwReplay_append_codeRange h hk vs

/-- A message of symbols of a table with EOM is coded and decoded back. With block size 0 there is nothing to code: EOM is
then the only symbol, and the message, which has none, is empty. -/
theorem lzwDecode_lzwEncode {t : Table} (hpos : 1 ≤ t.size) (hsize : t.size ≤ 256) {eom : Byte}
    (heom : (t.indexOf eom).isSome = true) {text : Text} {idx : List Nat}
    (hidx : t.lookupAll (lzwMessage eom text) = some idx) {tcap : Nat} (hroom : (lzwMessage eom text).length ≤ tcap) :
    lzwDecode t (lzwEncode t (lzwMessage eom text)).2.1 tcap (lzwEncode t (lzwMessage eom text)).1 =
      .ok (lzwMessage eom text, (lzwEncode t (lzwMessage eom text)).2.2) := by
  obtain ⟨es, hstrings, hflat, hfinal⟩ := lzwCodes_strings hsize hidx
  have hwidth := le_two_pow_clog2 (lzwCodes t (lzwMessage eom text)).2
  by_cases hw : clog2 (lzwCodes t (lzwMessage eom text)).2 = 0
  · have hone : t.size = 1 := by
      rw [hw] at hwidth
      omega
    have hmsg : lzwMessage eom text = [] := by
      refine List.eq_nil_iff_forall_not_mem.mpr fun c hc => ?_
      obtain ⟨i, hi⟩ := Option.isSome_iff_exists.mp heom
      obtain ⟨j, hj⟩ := Option.isSome_iff_exists.mp (indexOf_isSome_of_mem hidx hc)
      obtain ⟨hilt, hisym⟩ := Table.indexOf_lt hi
      obtain ⟨hjlt, hjsym⟩ := Table.indexOf_lt hj
      obtain rfl : i = j := by omega
      exact absurd (hjsym.symm.trans hisym) (by simpa using List.mem_takeWhile_imp hc)
    rw [hmsg]
    exact lzwDecode_nil hsize _ tcap
  · have hcodes : ∀ k ∈ (lzwCodes t (lzwMessage eom text)).1, k < 2 ^ clog2 (lzwCodes t (lzwMessage eom text)).2 :=
      fun k hk => ((hstrings.lt hk).trans_eq hfinal.symm).trans_le hwidth
    have hdecode := lzwResume_all hsize hstrings (hflat ▸ hroom)
    rw [hflat, ← hfinal] at hdecode
    exact (lzwDecode_blockBits t hw tcap hcodes).trans hdecode

/-! ### The commands -/

theorem exec_decLzw_error {s : State} {a b : BufIdx} (ha : a.toNat < s.cap.ntb) (hb : b.toNat < s.cap.nbs)
    (htable : s.table.valid = true) (heom : (s.table.indexOf s.eom).isSome = true) (hbuilt : s.valid.lzw = true) {e : Err}
    (h : lzwDecode s.table s.lzwBlocksize.toNat s.cap.tcap (s.mem.getBs b) = .error e) :
    ∃ t, exec (.decLzw a b) s = .next t ∧ CompletedWith e s t := by
  have hrule := ruleDecLzw_eq ha hb htable heom hbuilt
  rw [h] at hrule
  exact exec_completes_with (i := .decLzw a b) hrule

/-- LZW_DICTSIZE holds every size a decode can leave. -/
theorem lzwDecode_size_toNat {s : State} (hs : s.Inv) (htable : s.table.valid = true) {w : Nat} {bits : BitSeq}
    {r : Text × Nat} (h : lzwDecode s.table w s.cap.tcap bits = .ok r) : (BitVec.ofNat 64 r.2).toNat = r.2 := by
  obtain ⟨-, hsize, -⟩ := hs.table htable
  obtain ⟨-, -, -, -, -, -, -, htcap⟩ := hs.params
  have hn := lzwDecode_size_le hsize h
  exact Nat.mod_eq_of_lt (by omega)

theorem exec_decLzw_ok {s : State} {a b : BufIdx} (hs : s.Inv) (ha : a.toNat < s.cap.ntb) (hb : b.toNat < s.cap.nbs)
    (htable : s.table.valid = true) (heom : (s.table.indexOf s.eom).isSome = true) (hbuilt : s.valid.lzw = true)
    {x : Text} {n : Nat} (h : lzwDecode s.table s.lzwBlocksize.toNat s.cap.tcap (s.mem.getBs b) = .ok (x, n)) :
    ∃ t, exec (.decLzw a b) s = .next t ∧ CompletedOk s t ∧ t.mem.getTx a = x ∧ t.lzwDictsize.toNat = n := by
  have hrule := ruleDecLzw_eq ha hb htable heom hbuilt
  rw [h] at hrule
  exact ⟨_, exec_of_ruleOf_ok (i := .decLzw a b) hrule, completedOk_complete rfl rfl rfl,
    getTx_setTx_same s.mem a x (lt_tx_length hs.buffers ha), lzwDecode_size_toNat hs htable h⟩

theorem lzw_roundTrip {s t : State} {a b d : BufIdx} (hs : s.Inv) (hd : d.toNat < s.cap.ntb)
    (h : exec (.encLzw a b) s = .next t) (herr : t.status.err = 0) :
    ∃ u, exec (.decLzw d a) t = .next u ∧ CompletedOk t u ∧ u.mem.getTx d = lzwMessage s.eom (s.mem.getTx b) ∧
      u.lzwDictsize = t.lzwDictsize := by
  have ht := exec_inv hs h
  obtain ⟨u, hu, rfl⟩ := exec_ok h herr
  obtain ⟨ha, -, htable, heom, ⟨idx, hidx⟩, -, rfl⟩ := ruleEncLzw_ok_iff.mp hu
  obtain ⟨hpos, hsize, -⟩ := hs.table htable
  have hbs := lt_bs_length hs.buffers ha
  have hlt := lzwCodes_size_lt hs b
  have hwidth := Nat.mod_eq_of_lt ((clog2_le_of_le_two_pow hlt.le).trans_lt (by decide : 33 < 2 ^ 6))
  have hroom := (lzwMessage_length_le s.eom (s.mem.getTx b)).trans (getTx_length_le hs.buffers b)
  obtain ⟨v, hexec, hok, hx, hn⟩ := exec_decLzw_ok ht hd ha htable heom rfl
    ((congrArg (lzwDecode s.table _ s.cap.tcap) (getBs_setBs_same _ _ _ hbs)).trans
      ((congrArg (lzwDecode s.table · s.cap.tcap _) hwidth).trans (lzwDecode_lzwEncode hpos hsize heom hidx hroom)))
  refine ⟨v, hexec, hok, hx, BitVec.eq_of_toNat_eq (hn.trans ?_)⟩
  exact (Nat.mod_eq_of_lt (hlt.trans (by norm_num))).symm

/-- Settles O49: the round trip by the strings of the encoder's codes; the errors by the case of the group test, and then
by the first code that is out of range or does not fit. -/
theorem lzwRoundTripAndErrors : Obligations.LzwRoundTripAndErrors := by
  refine ⟨fun s t a b d hs hd h herr => lzw_roundTrip hs hd h herr, ?_⟩
  rintro s a b _ hs ha hb htable heom hbuilt rfl
  obtain ⟨-, hsize, -⟩ := hs.table htable
  have hok {x n} := exec_decLzw_ok (x := x) (n := n) hs ha hb htable heom hbuilt
  have hfail {e} := exec_decLzw_error (e := e) ha hb htable heom hbuilt
  refine ⟨fun hnil => hok ?empty, fun hw hne => hfail ?zero, fun hw hlen => hfail ?length,
    fun k rest hw hrest hk => ⟨fun hbeyond hbits => hfail ?first, fun pre s' t _ hpre herr hlt hs' => ?later⟩,
    fun ks es rest hw hks hstrings hbits => ?codes⟩
  case empty =>
    rw [hnil]
    exact lzwDecode_nil hsize _ _
  case zero => rw [lzwDecode, if_pos hw, if_pos (mt List.length_eq_zero_iff.mp hne)]
  case length => rw [lzwDecode, if_neg hw, if_pos hlen]
  case first =>
    obtain ⟨vs, hvs, rfl⟩ := exists_blockBits hrest
    rw [hbits, show uBits k s.lzwBlocksize.toNat ++ blockBits _ vs = blockBits _ (k :: vs) from rfl,
      lzwDecode_blockBits _ hw _ (List.forall_mem_cons.mpr ⟨hk, hvs⟩)]
    exact lzwResume_of_beyond hsize (lzwStrings_nil _) (Nat.zero_le _) hbeyond (fun hne => absurd rfl hne) vs
  case later =>
    obtain ⟨u, hu, rfl⟩ := exec_ok hpre herr
    obtain ⟨-, -, -, -, -, r, hr, rfl⟩ := ruleDecLzw_ok_iff.mp hu
    have hbs := lt_bs_length hs.buffers hb
    have hr : lzwDecode s.table s.lzwBlocksize.toNat s.cap.tcap pre = .ok r :=
      getBs_setBs_same s.mem b pre hbs ▸ hr
    have hlt : r.2 < k := (lzwDecode_size_toNat hs htable hr).symm.trans_lt hlt
    subst hs'
    refine exec_decLzw_error (s := s.putBs b _) ha hb htable heom hbuilt ?_
    exact (congrArg (lzwDecode _ _ _) (getBs_setBs_same s.mem b _ hbs)).trans
      (lzwDecode_append_codeRange hw hr hlt hk hrest)
  case codes =>
    have hread {vs : List Nat} (hvs : ∀ v ∈ vs, v < 2 ^ s.lzwBlocksize.toNat) (hrest : rest = blockBits s.lzwBlocksize.toNat vs) :
        lzwDecode s.table s.lzwBlocksize.toNat s.cap.tcap (s.mem.getBs b) = lzwResume s.table (ks ++ vs) [] s.cap.tcap := by
      rw [hbits, hrest]
      exact (congrArg (lzwDecode _ _ _) (blockBits_append _ ks vs).symm).trans
        (lzwDecode_blockBits _ hw _ (List.forall_mem_append.mpr ⟨hks, hvs⟩))
    refine ⟨fun hnil hfits => hok ?_, fun hrest hfull => hfail ?_, fun k rest' hrest hrest' hk hfits hge hgt => hfail ?_⟩
    · rw [hread (vs := []) (by simp) hnil, List.append_nil]
      exact lzwResume_all hsize hstrings hfits
    · obtain ⟨vs, hvs, hrest⟩ := exists_blockBits hrest
      rw [hread hvs hrest]
      exact lzwResume_of_lt hsize hstrings hfull vs
    · obtain ⟨vs, hvs, rfl⟩ := exists_blockBits hrest'
      rw [hread (vs := k :: vs) (List.forall_mem_cons.mpr ⟨hk, hvs⟩) hrest]
      exact lzwResume_of_beyond hsize hstrings hfits hge hgt vs

end Sys2Proof.Machine
end

section
/-! PROOFS. The ARITH codec (47_arithmetic.md R235 to R246). The decoder's value stays in its interval, so a symbol is always
found. For the round trip: what the encoder still has to emit, the pending bits taken out, is what the decoder has still to
read, and its first 53 bits lie in the interval that both have. -/

namespace Sys2Proof.Machine

/-! ### Bounds below 2^53 (R236, R239) -/

theorem shiftIn_eq (x : Nat) (b : Bool) : shiftIn x b = (2 * x + b.toNat) % 2 ^ 53 := by
  have hmask : (x <<< 1) &&& arMask = 2 * x % 2 ^ 53 := by
    rw [show arMask = 2 ^ 53 - 1 from rfl, Nat.and_two_pow_sub_one_eq_mod, Nat.shiftLeft_eq, Nat.pow_one, Nat.mul_comm]
  have heven : 2 * x % 2 ^ 53 = 2 ^ 1 * (2 * x % 2 ^ 53 / 2) := by omega
  have hor := Nat.two_pow_add_eq_or_of_lt (i := 1) (b := b.toNat) (by cases b <;> decide) (2 * x % 2 ^ 53 / 2)
  rw [shiftIn, hmask, heven, ← hor]
  cases b <;> simp only [Bool.toNat_true, Bool.toNat_false] <;> omega

theorem xor_arHalf_of_lt {x : Nat} (h : x < 2 ^ 52) : x ^^^ arHalf = 2 ^ 52 + x := by
  have hbits := Nat.testBit_two_pow_mul_add 1 h
  rw [Nat.mul_one] at hbits
  refine Nat.eq_of_testBit_eq fun j => ?_
  rw [hbits, Nat.testBit_xor, show arHalf = 2 ^ 52 from rfl, Nat.testBit_two_pow]
  split
  · rw [decide_eq_false (by omega), Bool.xor_false]
  · have hzero := Nat.testBit_lt_two_pow (h.trans_le (Nat.pow_le_pow_right (by decide) (Nat.le_of_not_lt ‹¬ j < 52›)))
    rw [hzero, Bool.false_xor, Bool.eq_iff_iff, decide_eq_true_iff, Nat.testBit_one_eq_true_iff_self_eq_zero]
    omega

theorem two_pow_add_xor_arHalf {x : Nat} (h : x < 2 ^ 52) : (2 ^ 52 + x) ^^^ arHalf = x := by
  rw [← xor_arHalf_of_lt h, Nat.xor_assoc, Nat.xor_self, Nat.xor_zero]

theorem topBit_eq {x : Nat} (h : x < 2 ^ 53) : topBit x = decide (2 ^ 52 ≤ x) := by
  rw [topBit, Nat.testBit_eq_decide_div_mod_eq]
  simp only [Config.precision]
  congr 1
  apply propext
  omega

theorem secondBit_eq (x : Nat) : secondBit x = decide (2 ^ 51 ≤ x % 2 ^ 52) := by
  rw [secondBit, Nat.testBit_eq_decide_div_mod_eq]
  simp only [Config.precision]
  congr 1
  apply propext
  omega

/-- The E1/E2 shift takes the common top bit off and doubles (R239). -/
theorem shiftIn_of_half {x : Nat} {b : Bool} (hlo : b.toNat * 2 ^ 52 ≤ x) (hhi : x < b.toNat * 2 ^ 52 + 2 ^ 52)
    (c : Bool) : shiftIn x c = 2 * (x - b.toNat * 2 ^ 52) + c.toNat := by
  have hc := c.toNat_le
  rw [shiftIn_eq]
  cases b <;> simp only [Bool.toNat_true, Bool.toNat_false] at hlo hhi ⊢ <;> omega

/-- The E3 shift takes a quarter off and doubles (R239). -/
theorem shiftIn_xor_of_middle {x : Nat} (hlo : 2 ^ 51 ≤ x) (hhi : x < 3 * 2 ^ 51) (c : Bool) :
    shiftIn x c ^^^ arHalf = 2 * (x - 2 ^ 51) + c.toNat := by
  have hc := c.toNat_le
  rw [shiftIn_eq]
  by_cases hx : x < 2 ^ 52
  · rw [show (2 * x + c.toNat) % 2 ^ 53 = 2 ^ 52 + (2 * (x - 2 ^ 51) + c.toNat) by omega, two_pow_add_xor_arHalf (by omega)]
  · rw [xor_arHalf_of_lt (by omega)]
    omega

/-! ### One turn of the renormalization (R239, R244) -/

/-- The bounds are in order and below 2^53. -/
structure Interval.Ok (iv : Interval) : Prop where
  le : iv.low ≤ iv.high
  lt : iv.high < 2 ^ 53

/-- The interval after a turn that takes `c` off both bounds. -/
def Interval.scale (iv : Interval) (c : Nat) : Interval := { low := 2 * (iv.low - c), high := 2 * (iv.high - c) + 1 }

section
variable {iv : Interval} (hok : iv.Ok)
include hok

theorem renormCase_top {b : Bool} (h : renormCase iv = .top b) :
    b.toNat * 2 ^ 52 ≤ iv.low ∧ iv.high < b.toNat * 2 ^ 52 + 2 ^ 52 := by
  obtain ⟨hle, hlt⟩ := hok
  unfold renormCase at h
  split at h
  · rename_i htop
    cases h
    rw [topBit_eq (by omega), topBit_eq hlt, decide_eq_decide] at htop
    rw [topBit_eq (by omega)]
    by_cases hlow : 2 ^ 52 ≤ iv.low
    · simp only [hlow, decide_true, Bool.toNat_true]
      omega
    · simp only [hlow, decide_false, Bool.toNat_false]
      omega
  · split at h <;> cases h

theorem renormCase_under (h : renormCase iv = .under) :
    2 ^ 51 ≤ iv.low ∧ iv.low < 2 ^ 52 ∧ 2 ^ 52 ≤ iv.high ∧ iv.high < 3 * 2 ^ 51 := by
  obtain ⟨hle, hlt⟩ := hok
  unfold renormCase at h
  split at h
  · cases h
  · split at h
    · rename_i hbits
      rw [topBit_eq (by omega), secondBit_eq, topBit_eq hlt, secondBit_eq, decide_eq_false_iff_not,
        decide_eq_true_iff, decide_eq_true_iff, decide_eq_false_iff_not] at hbits
      omega
    · cases h

theorem shift_eq_scale {b : Bool} (h : renormCase iv = .top b) : iv.shift = iv.scale (b.toNat * 2 ^ 52) := by
  obtain ⟨hlo, hhi⟩ := renormCase_top hok h
  have hle := hok.le
  rw [Interval.shift, shiftIn_of_half hlo (by omega), shiftIn_of_half (hlo.trans hle) hhi, Interval.scale,
    Bool.toNat_false, Bool.toNat_true, Nat.add_zero]

theorem shiftUnder_eq_scale (h : renormCase iv = .under) : iv.shiftUnder = iv.scale (2 ^ 51) := by
  obtain ⟨hlo, hlo', hhi, hhi'⟩ := renormCase_under hok h
  rw [Interval.shiftUnder, shiftIn_xor_of_middle hlo (by omega), shiftIn_xor_of_middle (by omega) hhi',
    Interval.scale, Bool.toNat_false, Bool.toNat_true, Nat.add_zero]

theorem Interval.Ok.shift {b : Bool} (h : renormCase iv = .top b) : iv.shift.Ok := by
  obtain ⟨hlo, hhi⟩ := renormCase_top hok h
  have hle := hok.le
  rw [shift_eq_scale hok h]
  constructor <;> simp only [Interval.scale] <;> omega

theorem Interval.Ok.shiftUnder (h : renormCase iv = .under) : iv.shiftUnder.Ok := by
  obtain ⟨hlo, hlo', hhi, hhi'⟩ := renormCase_under hok h
  rw [shiftUnder_eq_scale hok h]
  constructor <;> simp only [Interval.scale] <;> omega

end

section
variable {iv : Interval} (f p : Nat) (fd : BitFeed)

theorem encRenorm_top {b : Bool} (h : renormCase iv = .top b) :
    encRenorm (f + 1) iv p =
      (emitWithPending b p ++ (encRenorm f iv.shift 0).1, (encRenorm f iv.shift 0).2) := by
  rw [encRenorm, h]

theorem encRenorm_under (h : renormCase iv = .under) : encRenorm (f + 1) iv p = encRenorm f iv.shiftUnder (p + 1) := by
  rw [encRenorm, h]

theorem encRenorm_done (h : renormCase iv = .done) : encRenorm f iv p = ([], iv, p) := by
  cases f with
  | zero => rfl
  | succ f => rw [encRenorm, h]

theorem decRenorm_top {b : Bool} (h : renormCase iv = .top b) :
    decRenorm (f + 1) iv fd = decRenorm f iv.shift fd.shift := by
  rw [decRenorm, h]

theorem decRenorm_under (h : renormCase iv = .under) :
    decRenorm (f + 1) iv fd = decRenorm f iv.shiftUnder fd.shiftUnder := by
  rw [decRenorm, h]

theorem decRenorm_done (h : renormCase iv = .done) : decRenorm f iv fd = (iv, fd) := by
  cases f with
  | zero => rfl
  | succ f => rw [decRenorm, h]

end

/-! ### The decoder's value stays in its interval (R243) -/

/-- The interval holds the value. -/
structure Interval.Has (iv : Interval) (v : Nat) : Prop where
  low  : iv.low ≤ v
  high : v ≤ iv.high

theorem Interval.Has.scale {iv : Interval} {v c : Nat} (h : iv.Has v) (b : Bool) :
    (iv.scale c).Has (2 * (v - c) + b.toNat) := by
  obtain ⟨hlow, hhigh⟩ := h
  have hb := b.toNat_le
  constructor <;> simp only [Interval.scale] <;> omega

theorem BitFeed.has_shift {iv : Interval} (hok : iv.Ok) {fd : BitFeed} (h : iv.Has fd.v) {b : Bool}
    (hcase : renormCase iv = .top b) : iv.shift.Has fd.shift.v := by
  obtain ⟨hlo, hhi⟩ := renormCase_top hok hcase
  rw [shift_eq_scale hok hcase, BitFeed.shift, shiftIn_of_half (hlo.trans h.low) (h.high.trans_lt hhi)]
  exact h.scale _

theorem BitFeed.has_shiftUnder {iv : Interval} (hok : iv.Ok) {fd : BitFeed} (h : iv.Has fd.v)
    (hcase : renormCase iv = .under) : iv.shiftUnder.Has fd.shiftUnder.v := by
  obtain ⟨hlo, -, -, hhi⟩ := renormCase_under hok hcase
  rw [shiftUnder_eq_scale hok hcase, BitFeed.shiftUnder, shiftIn_xor_of_middle (hlo.trans h.low) (h.high.trans_lt hhi)]
  exact h.scale _

theorem decRenorm_has (f : Nat) {iv : Interval} (hok : iv.Ok) {fd : BitFeed} (h : iv.Has fd.v) :
    (decRenorm f iv fd).1.Ok ∧ (decRenorm f iv fd).1.Has (decRenorm f iv fd).2.v := by
  induction f generalizing iv fd with
  | zero => exact ⟨hok, h⟩
  | succ f ih =>
    cases hcase : renormCase iv with
    | top b =>
      rw [decRenorm_top f fd hcase]
      exact ih (hok.shift hcase) (fd.has_shift hok h hcase)
    | under =>
      rw [decRenorm_under f fd hcase]
      exact ih (hok.shiftUnder hcase) (fd.has_shiftUnder hok h hcase)
    | done =>
      rw [decRenorm_done (f + 1) fd hcase]
      exact ⟨hok, h⟩

/-! ### The cumulative weights (R235) -/

theorem arCumFrom_getElem? (acc : Nat) {ws : List Nat} {k : Nat} (hk : k ≤ ws.length) :
    (arCumFrom acc ws)[k]? = some (acc + (ws.take k).sum) := by
  induction ws generalizing acc k with
  | nil =>
    obtain rfl := Nat.le_zero.mp hk
    rfl
  | cons w ws ih =>
    cases k with
    | zero => rfl
    | succ k =>
      rw [arCumFrom, List.getElem?_cons_succ, ih _ (Nat.le_of_succ_le_succ hk), List.take_succ_cons, List.sum_cons,
        Nat.add_assoc]

theorem arCumFrom_length (acc : Nat) (ws : List Nat) : (arCumFrom acc ws).length = ws.length + 1 := by
  induction ws generalizing acc with
  | nil => rfl
  | cons w ws ih => rw [arCumFrom, List.length_cons, ih, List.length_cons]

section
variable {t : Table} (hwf : t.wf) (hv : t.valid = true)
include hwf hv

theorem sum_take_weights_le (k : Nat) : (t.weights.take k).sum ≤ t.total := by
  rw [(hwf hv).2.2.1]
  exact (List.take_sublist k _).sum_le_sum fun _ _ => Nat.zero_le _

theorem arBuild_cumAt {k : Nat} (hk : k ≤ t.size) : (arBuild t).cumAt k = (t.weights.take k).sum := by
  obtain ⟨-, hsize, -⟩ := hwf hv
  have hweights := Table.weights_length hsize
  have hget := arCumFrom_getElem? 0 (hk.trans_eq hweights.symm)
  rw [Nat.zero_add] at hget
  have hlt := (sum_take_weights_le hwf hv k).trans_lt (total_lt hwf hv)
  rw [ArState.cumAt, arBuild, fillVec_getD (by simpa [arCumFrom_length, hweights] using Nat.lt_succ_of_le hsize), List.getD_eq_getElem?_getD,
    List.getElem?_map, hget]
  exact Nat.mod_eq_of_lt hlt

theorem arBuild_n : (arBuild t).n.toNat = t.size := by
  obtain ⟨-, hsize, -⟩ := hwf hv
  rw [arBuild, Table.weights_length hsize]
  exact Nat.mod_eq_of_lt (by omega)

theorem arBuild_cumAt_zero : (arBuild t).cumAt 0 = 0 := by
  rw [arBuild_cumAt hwf hv (Nat.zero_le _)]
  rfl

theorem arBuild_cumAt_size : (arBuild t).cumAt t.size = t.total := by
  obtain ⟨-, hsize, htotal, -⟩ := hwf hv
  rw [arBuild_cumAt hwf hv le_rfl, htotal, List.take_of_length_le (Table.weights_length hsize).le]

theorem arBuild_cumAt_mono {j k : Nat} (hjk : j ≤ k) (hk : k ≤ t.size) :
    (arBuild t).cumAt j ≤ (arBuild t).cumAt k := by
  rw [arBuild_cumAt hwf hv (hjk.trans hk), arBuild_cumAt hwf hv hk]
  exact (List.take_sublist_take_left hjk).sum_le_sum fun _ _ => Nat.zero_le _

theorem arBuild_cumAt_le {k : Nat} (hk : k ≤ t.size) : (arBuild t).cumAt k ≤ t.total := by
  rw [← arBuild_cumAt_size hwf hv]
  exact arBuild_cumAt_mono hwf hv hk le_rfl

/-- The sub-intervals `[AR_CUM[k], AR_CUM[k+1])` cover `[0, S)`. -/
theorem exists_cumAt {x : Nat} (hx : x < t.total) :
    ∃ k < t.size, (arBuild t).cumAt k ≤ x ∧ x < (arBuild t).cumAt (k + 1) := by
  have hcover : ∀ n ≤ t.size, x < (arBuild t).cumAt n →
      ∃ k < n, (arBuild t).cumAt k ≤ x ∧ x < (arBuild t).cumAt (k + 1) := by
    intro n hn hlt
    induction n with
    | zero =>
      rw [arBuild_cumAt_zero hwf hv] at hlt
      cases hlt
    | succ n ih =>
      by_cases hle : (arBuild t).cumAt n ≤ x
      · exact ⟨n, Nat.lt_succ_self n, hle, hlt⟩
      · obtain ⟨k, hk, h⟩ := ih (Nat.le_of_succ_le hn) (Nat.lt_of_not_le hle)
        exact ⟨k, hk.trans (Nat.lt_succ_self n), h⟩
  exact hcover t.size le_rfl (by rwa [arBuild_cumAt_size hwf hv])

/-- They are disjoint, so the symbol found is the one whose sub-interval holds the scaled position. -/
theorem arFind_eq_some {k x : Nat} (hk : k < t.size) (hlo : (arBuild t).cumAt k ≤ x)
    (hhi : x < (arBuild t).cumAt (k + 1)) : arFind (arBuild t) x = some k := by
  rw [arFind, arBuild_n hwf hv, List.find?_range_eq_some]
  refine ⟨by simp [hlo, hhi], List.mem_range.mpr hk, fun j hj => ?_⟩
  have hbefore : ¬ x < (arBuild t).cumAt (j + 1) :=
    Nat.not_lt.mpr ((arBuild_cumAt_mono hwf hv hj hk.le).trans hlo)
  simp [hbefore]

end

/-! ### Narrowing and the symbol found (R238, R243) -/

/-- How far above `low` the bound `x` of a symbol's sub-interval falls (R238). -/
def arOffset (S : Nat) (iv : Interval) (x : Nat) : Nat := (iv.high - iv.low + 1) * x / S

theorem arOffset_le {S : Nat} {iv : Interval} {x : Nat} (h : x ≤ S) : arOffset S iv x ≤ iv.high - iv.low + 1 := by
  refine Nat.div_le_of_le_mul ?_
  rw [Nat.mul_comm S]
  exact Nat.mul_le_mul_left _ h

theorem arOffset_total {S : Nat} (hS : 0 < S) (iv : Interval) : arOffset S iv S = iv.high - iv.low + 1 :=
  Nat.mul_div_cancel _ hS

theorem arNarrow_ok_iff {S lo hi : Nat} {iv iv' : Interval} :
    arNarrow S lo hi iv = .ok iv' ↔ arOffset S iv lo < arOffset S iv hi ∧
      iv' = { low := iv.low + arOffset S iv lo, high := iv.low + arOffset S iv hi - 1 } := by
  change (if arOffset S iv hi ≤ arOffset S iv lo then _ else _) = _ ↔ _
  split
  · simp only [reduceCtorEq, false_iff, not_and]
    omega
  · simp only [Except.ok.injEq, eq_comm (a := iv')]
    exact ⟨fun h => ⟨by omega, h⟩, fun h => h.2⟩

section
variable {S : Nat} (hS : 0 < S) {iv : Interval} {v : Nat} (h : iv.Has v)
include hS h

/-- The scaled position is below `hi` exactly when the value is below its bound. -/
theorem arScaled_lt_iff {hi : Nat} : arScaled S iv v < hi ↔ v < iv.low + arOffset S iv hi := by
  obtain ⟨x, rfl⟩ := Nat.exists_eq_add_of_le h.low
  have hpos : 0 < (x + 1) * S := Nat.mul_pos x.succ_pos hS
  have hrange : 0 < iv.high - iv.low + 1 := Nat.succ_pos _
  rw [arScaled, Nat.add_sub_cancel_left, Nat.div_lt_iff_lt_mul hrange, Nat.add_lt_add_iff_left,
    ← Nat.add_one_le_iff (n := x), arOffset, Nat.le_div_iff_mul_le hS, Nat.mul_comm hi]
  exact ⟨fun hlt => by omega, fun hle => by omega⟩

theorem le_arScaled_iff {lo : Nat} : lo ≤ arScaled S iv v ↔ iv.low + arOffset S iv lo ≤ v := by
  rw [← Nat.not_lt, arScaled_lt_iff hS h, Nat.not_lt]

end

section
variable {t : Table} (hwf : t.wf) (hv : t.valid = true)
include hwf hv

/-- The sub-interval of a symbol of the table lies in the interval. -/
theorem arNarrow_within {iv iv' : Interval} (hok : iv.Ok) {k : Nat} (hk : k < t.size)
    (h : arNarrow t.total ((arBuild t).cumAt k) ((arBuild t).cumAt (k + 1)) iv = .ok iv') :
    iv'.Ok ∧ ∀ v, iv'.Has v → iv.Has v := by
  obtain ⟨hle, hlt⟩ := hok
  obtain ⟨hne, rfl⟩ := arNarrow_ok_iff.mp h
  have htop := arOffset_le (iv := iv) (arBuild_cumAt_le (k := k + 1) hwf hv hk)
  refine ⟨⟨by dsimp only; omega, by dsimp only; omega⟩, fun v hv => ?_⟩
  obtain ⟨hlow, hhigh⟩ := hv
  dsimp only at hlow hhigh
  constructor <;> omega

/-- The decoder finds the symbol into whose sub-interval its value falls. -/
theorem arFind_of_narrow {iv iv' : Interval} {v : Nat} (hok : iv.Ok) {k : Nat} (hk : k < t.size)
    (h : arNarrow t.total ((arBuild t).cumAt k) ((arBuild t).cumAt (k + 1)) iv = .ok iv') (hhas : iv'.Has v) :
    arFind (arBuild t) (arScaled t.total iv v) = some k := by
  have hin := (arNarrow_within hwf hv hok hk h).2 v hhas
  obtain ⟨hne, rfl⟩ := arNarrow_ok_iff.mp h
  obtain ⟨hlow, hhigh⟩ := hhas
  dsimp only at hlow hhigh
  exact arFind_eq_some hwf hv hk ((le_arScaled_iff (total_pos hwf hv) hin).mpr hlow)
    ((arScaled_lt_iff (total_pos hwf hv) hin).mpr (by omega))

/-- Whatever the value is, a symbol is found, and narrowing by it does not fail (R243). -/
theorem exists_arFind {iv : Interval} {v : Nat} (hhas : iv.Has v) :
    ∃ k < t.size, arFind (arBuild t) (arScaled t.total iv v) = some k ∧
      ∃ iv', arNarrow t.total ((arBuild t).cumAt k) ((arBuild t).cumAt (k + 1)) iv = .ok iv' ∧ iv'.Has v := by
  have hS := total_pos hwf hv
  have hscaled : arScaled t.total iv v < t.total := by
    obtain ⟨hlow, hhigh⟩ := hhas
    rw [arScaled_lt_iff hS ⟨hlow, hhigh⟩, arOffset_total hS]
    omega
  obtain ⟨k, hk, hlo, hhi⟩ := exists_cumAt hwf hv hscaled
  have hlow := (le_arScaled_iff hS hhas).mp hlo
  have hhigh := (arScaled_lt_iff hS hhas).mp hhi
  exact ⟨k, hk, arFind_eq_some hwf hv hk hlo hhi, _, arNarrow_ok_iff.mpr ⟨by omega, rfl⟩,
    ⟨hlow, by dsimp only; omega⟩⟩

end

/-! ### The decode loop (R246) -/

section
variable {t : Table} {eom : Byte} {st : ArState} {iv : Interval} {fd : BitFeed} {k : Nat}

theorem arDecode_full (hfind : arFind st (arScaled t.total iv fd.v) = some k) :
    arDecode st t eom 0 iv fd = .error .txFull := by
  rw [arDecode, hfind]

theorem arDecode_eom (hfind : arFind st (arScaled t.total iv fd.v) = some k) (hk : t.symAt k = eom) (room : Nat) :
    arDecode st t eom (room + 1) iv fd = .ok [eom] := by
  rw [arDecode, hfind]
  simp only [hk, if_true]

theorem arDecode_next (hfind : arFind st (arScaled t.total iv fd.v) = some k) (hk : t.symAt k ≠ eom) {iv' : Interval}
    (hnarrow : arNarrow t.total (st.cumAt k) (st.cumAt (k + 1)) iv = .ok iv') (room : Nat) :
    arDecode st t eom (room + 1) iv fd =
      (arDecode st t eom room (decRenorm Config.precision iv' fd).1 (decRenorm Config.precision iv' fd).2).map
        (t.symAt k :: ·) := by
  rw [arDecode, hfind]
  simp only [hk, if_false, hnarrow]
  cases arDecode st t eom room (decRenorm Config.precision iv' fd).1 (decRenorm Config.precision iv' fd).2 <;> rfl

end

theorem Table.indexOf_symAt_isSome {t : Table} (hsize : t.size ≤ 256) {k : Nat} (hk : k < t.size) :
    (t.indexOf (t.symAt k)).isSome = true := by
  have hk' : k < t.syms.length := by rwa [Table.syms_length hsize]
  rw [Option.isSome_iff_ne_none, ne_eq, indexOf_none_iff, not_not, Table.symAt, List.getD_eq_getElem _ _ hk']
  exact List.getElem_mem hk'

/-- Of any stream the decode is a text that ends at its one EOM, or TX_FULL (R243, R246). -/
theorem arDecode_ends {t : Table} (hwf : t.wf) (hv : t.valid = true) (eom : Byte) (room : Nat) {iv : Interval}
    (hok : iv.Ok) {fd : BitFeed} (hhas : iv.Has fd.v) :
    (∃ y, arDecode (arBuild t) t eom room iv fd = .ok (y ++ [eom]) ∧ eom ∉ y ∧ y.length + 1 ≤ room ∧
      ∀ c ∈ y, (t.indexOf c).isSome = true) ∨
    arDecode (arBuild t) t eom room iv fd = .error .txFull := by
  induction room generalizing iv fd with
  | zero =>
    obtain ⟨k, -, hfind, -⟩ := exists_arFind hwf hv hhas
    exact .inr (arDecode_full hfind)
  | succ room ih =>
    obtain ⟨k, hk, hfind, iv', hnarrow, hhas'⟩ := exists_arFind hwf hv hhas
    by_cases heom : t.symAt k = eom
    · exact .inl ⟨[], arDecode_eom hfind heom room, List.not_mem_nil, Nat.succ_pos room, nofun⟩
    · obtain ⟨hok'', hhas''⟩ := decRenorm_has Config.precision (arNarrow_within hwf hv hok hk hnarrow).1 hhas'
      rw [arDecode_next hfind heom hnarrow]
      obtain ⟨y, hy, hnotin, hlen, hsyms⟩ | hfull := ih hok'' hhas''
      · refine .inl ⟨t.symAt k :: y, by rw [hy]; rfl, ?_, Nat.succ_le_succ hlen, ?_⟩
        · exact List.not_mem_cons_of_ne_of_not_mem (Ne.symm heom) hnotin
        · exact List.forall_mem_cons.mpr ⟨Table.indexOf_symAt_isSome (hwf hv).2.1 hk, hsyms⟩
      · exact .inr (by rw [hfull]; rfl)

/-! ### What the encoder emits and what the decoder reads (R239 to R244) -/

/-- The first 53 bits of a stream, as a number. -/
def arWindow (ys : BitSeq) : Nat := uVal (ys.take Config.precision)

/-- The stream `ys` with `p` complements of its first bit behind that bit: what the encoder emits for it with `p` bits
pending (R239, R241). -/
def withPending (p : Nat) : BitSeq → BitSeq
  | [] => []
  | b :: ys => emitWithPending b p ++ ys

theorem withPending_zero (ys : BitSeq) : withPending 0 ys = ys := by
  cases ys <;> rfl

/-- One more bit pending is one more complement behind the first bit. -/
theorem withPending_succ (p : Nat) (b : Bool) (ys : BitSeq) :
    withPending (p + 1) (b :: ys) = withPending p (b :: (!b) :: ys) := by
  rw [withPending, emitWithPending, List.replicate_succ', withPending, emitWithPending, ← List.cons_append,
    List.append_assoc, List.singleton_append]

/-- The decoder has the first 53 bits of `ys` in its value and the others, padded with zeros, before it (R244). -/
structure Feeds (fd : BitFeed) (ys : BitSeq) : Prop where
  value : fd.v = arWindow ys
  rest  : ∀ n, fd.rest.getD n false = ys.getD (n + Config.precision) false

theorem arWindow_lt (ys : BitSeq) : arWindow ys < 2 ^ 53 :=
  (uVal_lt _).trans_le (Nat.pow_le_pow_right (by decide) (List.length_take_le 53 ys))

theorem uVal_append_singleton (ys : BitSeq) (b : Bool) : uVal (ys ++ [b]) = 2 * uVal ys + b.toNat := by
  rw [uVal, List.foldl_append]
  rfl

theorem arWindow_cons (b : Bool) {ys : BitSeq} (h : 52 ≤ ys.length) :
    arWindow (b :: ys) = b.toNat * 2 ^ 52 + uVal (ys.take 52) := by
  rw [arWindow, Config.precision, List.take_succ_cons, uVal_cons, List.length_take_of_le h]

/-- Taking the first bit off doubles the rest of the window and brings a bit in (R244, E1 and E2). -/
theorem arWindow_tail (b : Bool) {ys : BitSeq} (h : 53 ≤ ys.length) :
    b.toNat * 2 ^ 52 ≤ arWindow (b :: ys) ∧ arWindow (b :: ys) < b.toNat * 2 ^ 52 + 2 ^ 52 ∧
    arWindow ys = 2 * (arWindow (b :: ys) - b.toNat * 2 ^ 52) + (ys.getD 52 false).toNat := by
  have hlow := uVal_lt (ys.take 52)
  have htail : arWindow ys = 2 * uVal (ys.take 52) + (ys.getD 52 false).toNat := by
    rw [arWindow, Config.precision, List.take_add_one, List.getElem?_eq_getElem h, Option.toList_some,
      uVal_append_singleton, List.getD_eq_getElem _ _ h]
  rw [List.length_take_of_le (by omega)] at hlow
  rw [arWindow_cons b (by omega), htail]
  omega

/-- Taking the second bit off, the complement of the first, takes a quarter off (R244, E3). -/
theorem arWindow_second (b : Bool) {ys : BitSeq} (h : 52 ≤ ys.length) :
    2 ^ 51 ≤ arWindow (b :: (!b) :: ys) ∧ arWindow (b :: (!b) :: ys) < 3 * 2 ^ 51 ∧
    arWindow (b :: ys) = 2 * (arWindow (b :: (!b) :: ys) - 2 ^ 51) + (ys.getD 51 false).toNat := by
  obtain ⟨hlo, hhi, htail⟩ := arWindow_tail b (ys := (!b) :: ys) (Nat.succ_le_succ h)
  have hlow := uVal_lt (ys.take 52)
  have hbit := (ys.getD 51 false).toNat_le
  rw [List.length_take_of_le h] at hlow
  rw [arWindow_cons (!b) h, List.getD_cons_succ] at htail
  rw [arWindow_cons b h]
  cases b <;> simp only [Bool.not_true, Bool.not_false, Bool.toNat_true, Bool.toNat_false] at hlo hhi htail ⊢ <;> omega

theorem BitFeed.nextBit_eq (fd : BitFeed) : fd.nextBit = fd.rest.getD 0 false := by
  rw [BitFeed.nextBit]
  cases fd.rest <;> rfl

theorem Feeds.tail_rest {fd : BitFeed} {b : Bool} {ys : BitSeq} (h : Feeds fd (b :: ys)) (n : Nat) :
    fd.rest.tail.getD n false = ys.getD (n + Config.precision) false := by
  have hnext := h.rest (n + 1)
  rw [Nat.succ_add, List.getD_cons_succ] at hnext
  rw [← hnext]
  cases fd.rest <;> rfl

theorem Feeds.shift {fd : BitFeed} {b : Bool} {ys : BitSeq} (h : Feeds fd (b :: ys)) (hlen : 53 ≤ ys.length) :
    Feeds fd.shift ys := by
  obtain ⟨hlo, hhi, htail⟩ := arWindow_tail b hlen
  have hnext : fd.nextBit = ys.getD 52 false := fd.nextBit_eq.trans (h.rest 0)
  exact ⟨by rw [BitFeed.shift, hnext, h.value, shiftIn_of_half hlo hhi, htail], h.tail_rest⟩

theorem Feeds.shiftUnder {fd : BitFeed} {b : Bool} {ys : BitSeq} (h : Feeds fd (b :: (!b) :: ys)) (hlen : 52 ≤ ys.length) :
    Feeds fd.shiftUnder (b :: ys) := by
  obtain ⟨hlo, hhi, hsecond⟩ := arWindow_second b hlen
  have hnext : fd.nextBit = ys.getD 51 false := fd.nextBit_eq.trans (h.rest 0)
  exact ⟨by rw [BitFeed.shiftUnder, hnext, h.value, shiftIn_xor_of_middle hlo hhi, hsecond], h.tail_rest⟩

/-! ### The first 53 bits (R242, R244) -/

theorem Feeds.fill {fd : BitFeed} {pre ys : BitSeq} (h : Feeds fd (pre ++ ys)) (hlen : 53 ≤ ys.length) :
    Feeds (BitFeed.fill pre.length fd) ys := by
  induction pre generalizing fd with
  | nil => exact h
  | cons b pre ih => exact ih (h.shift (hlen.trans (List.length_append ▸ Nat.le_add_left _ _)))

/-- After the fill the decoder has the first 53 bits: as if 53 zeros stood before the stream. -/
theorem feeds_fill {rest ys : BitSeq} (hrest : ∀ n, rest.getD n false = ys.getD n false) (hlen : 53 ≤ ys.length) :
    Feeds (BitFeed.fill Config.precision { v := 0, rest := rest }) ys := by
  refine Feeds.fill (pre := List.replicate Config.precision false) ⟨?_, fun n => ?_⟩ hlen
  · rw [arWindow, List.take_left' List.length_replicate]
    rfl
  · rw [hrest, List.getD_append_right _ _ _ _ (by rw [List.length_replicate]; exact Nat.le_add_left _ _),
      List.length_replicate, Nat.add_sub_cancel]

theorem getD_append_zeros (ys : BitSeq) (m n : Nat) :
    (ys ++ List.replicate m false).getD n false = ys.getD n false := by
  by_cases hn : n < ys.length
  · rw [List.getD_append _ _ _ _ hn]
  · have hn' := Nat.le_of_not_lt hn
    rw [List.getD_append_right _ _ _ _ hn', List.getD_eq_default _ _ hn', List.getD_eq_getElem?_getD,
      List.getElem?_replicate]
    split <;> rfl

theorem eq_trimZeros_append (ys : BitSeq) : ∃ m, ys = trimZeros ys ++ List.replicate m false := by
  refine ⟨(ys.reverse.takeWhile (!·)).length, ?_⟩
  have hzeros : ys.reverse.takeWhile (!·) = List.replicate (ys.reverse.takeWhile (!·)).length false :=
    List.eq_replicate_of_mem fun b hb => by simpa using List.mem_takeWhile_imp hb
  rw [trimZeros, ← List.reverse_replicate, ← hzeros, ← List.reverse_append, List.takeWhile_append_dropWhile,
    List.reverse_reverse]

theorem trimZeros_getD (ys : BitSeq) (n : Nat) : (trimZeros ys).getD n false = ys.getD n false := by
  obtain ⟨m, hm⟩ := eq_trimZeros_append ys
  conv_rhs => rw [hm, getD_append_zeros]

theorem fill_lt (rest : BitSeq) : (BitFeed.fill Config.precision { v := 0, rest := rest }).v < 2 ^ 53 := by
  have h := feeds_fill (rest := rest) (fun n => (getD_append_zeros rest 53 n).symm)
    (by rw [List.length_append, List.length_replicate]; omega)
  exact h.value ▸ arWindow_lt _

/-! ### The two renormalizations run alike (R239, R244) -/

/-- A stream that the decoder may have before it: a full window, which lies in the interval. -/
structure Interval.Admits (iv : Interval) (ys : BitSeq) : Prop where
  long : 53 ≤ ys.length
  has  : iv.Has (arWindow ys)

theorem Interval.Has.of_scale {iv : Interval} (hok : iv.Ok) {v c : Nat} {b : Bool}
    (h : (iv.scale c).Has (2 * (v - c) + b.toNat)) (hlow : c ≤ iv.low) (hc : c ≤ v) : iv.Has v := by
  have hle := hok.le
  have hb := b.toNat_le
  obtain ⟨hlo, hhi⟩ := h
  simp only [Interval.scale] at hlo hhi
  constructor <;> omega

theorem Interval.Admits.of_shift {iv : Interval} (hok : iv.Ok) {b : Bool} (hcase : renormCase iv = .top b) {ys : BitSeq}
    (h : iv.shift.Admits ys) : iv.Admits (b :: ys) := by
  obtain ⟨hlen, hhas⟩ := h
  obtain ⟨hlo, -, htail⟩ := arWindow_tail b hlen
  rw [shift_eq_scale hok hcase, htail] at hhas
  exact ⟨hlen.trans (Nat.le_succ _), hhas.of_scale hok (renormCase_top hok hcase).1 hlo⟩

theorem Interval.Admits.of_shiftUnder {iv : Interval} (hok : iv.Ok) (hcase : renormCase iv = .under) {b : Bool}
    {ys : BitSeq} (h : iv.shiftUnder.Admits (b :: ys)) : iv.Admits (b :: (!b) :: ys) := by
  obtain ⟨hlen, hhas⟩ := h
  obtain ⟨hlo, -, hsecond⟩ := arWindow_second b (Nat.le_of_succ_le_succ hlen)
  rw [shiftUnder_eq_scale hok hcase, hsecond] at hhas
  exact ⟨hlen.trans (Nat.le_succ _), hhas.of_scale hok (renormCase_under hok hcase).1 hlo⟩

theorem encRenorm_ok (f : Nat) {iv : Interval} (hok : iv.Ok) (p : Nat) : (encRenorm f iv p).2.1.Ok := by
  induction f generalizing iv p with
  | zero => exact hok
  | succ f ih =>
    cases hcase : renormCase iv with
    | top b =>
      rw [encRenorm_top f p hcase]
      exact ih (hok.shift hcase) 0
    | under =>
      rw [encRenorm_under f p hcase]
      exact ih (hok.shiftUnder hcase) (p + 1)
    | done =>
      rw [encRenorm_done (f + 1) p hcase]
      exact hok

/-- The decoder that has before it what the encoder still has to emit renormalizes as the encoder does. -/
theorem encRenorm_feeds (f : Nat) {iv : Interval} (hok : iv.Ok) (p : Nat) {ys' : BitSeq}
    (h : (encRenorm f iv p).2.1.Admits ys') :
    ∃ ys, iv.Admits ys ∧ withPending p ys = (encRenorm f iv p).1 ++ withPending (encRenorm f iv p).2.2 ys' ∧
      ∀ fd, Feeds fd ys → (decRenorm f iv fd).1 = (encRenorm f iv p).2.1 ∧ Feeds (decRenorm f iv fd).2 ys' := by
  induction f generalizing iv p with
  | zero => exact ⟨ys', h, rfl, fun fd hfd => ⟨rfl, hfd⟩⟩
  | succ f ih =>
    cases hcase : renormCase iv with
    | top b =>
      rw [encRenorm_top f p hcase] at h ⊢
      obtain ⟨ys, hadmits, hemits, hfeeds⟩ := ih (hok.shift hcase) 0 h
      refine ⟨b :: ys, hadmits.of_shift hok hcase, ?_, fun fd hfd => ?_⟩
      · rw [List.append_assoc, ← hemits, withPending_zero]
        rfl
      · rw [decRenorm_top f fd hcase]
        exact hfeeds _ (hfd.shift hadmits.long)
    | under =>
      rw [encRenorm_under f p hcase] at h ⊢
      obtain ⟨ys, hadmits, hemits, hfeeds⟩ := ih (hok.shiftUnder hcase) (p + 1) h
      obtain ⟨b, zs, rfl⟩ := List.exists_cons_of_length_pos (Nat.lt_of_lt_of_le (by decide) hadmits.long)
      refine ⟨b :: (!b) :: zs, hadmits.of_shiftUnder hok hcase, ?_, fun fd hfd => ?_⟩
      · rw [← hemits, withPending_succ]
      · rw [decRenorm_under f fd hcase]
        exact hfeeds _ (hfd.shiftUnder (Nat.le_of_succ_le_succ hadmits.long))
    | done =>
      rw [encRenorm_done (f + 1) p hcase] at h ⊢
      exact ⟨ys', h, rfl, fun fd hfd => by rw [decRenorm_done (f + 1) fd hcase]; exact ⟨rfl, hfd⟩⟩

/-! ### The two loops run alike (R245, R246) -/

/-- From the interval and the supply the decode loop finds the indices `idx`, one after the other. -/
def ArFinds (t : Table) : List Nat → Interval → BitFeed → Prop
  | [], _, _ => True
  | k :: ks, iv, fd =>
    arFind (arBuild t) (arScaled t.total iv fd.v) = some k ∧
    ∃ iv', arNarrow t.total ((arBuild t).cumAt k) ((arBuild t).cumAt (k + 1)) iv = .ok iv' ∧
      ArFinds t ks (decRenorm Config.precision iv' fd).1 (decRenorm Config.precision iv' fd).2

theorem encSymbols_cons_ok_iff {st : ArState} {S k : Nat} {ks : List Nat} {iv : Interval} {p : Nat}
    {r : BitSeq × Interval × Nat} :
    encSymbols st S (k :: ks) iv p = .ok r ↔
      ∃ iv', arNarrow S (st.cumAt k) (st.cumAt (k + 1)) iv = .ok iv' ∧
        ∃ q, encSymbols st S ks (encRenorm Config.precision iv' p).2.1 (encRenorm Config.precision iv' p).2.2 = .ok q ∧
          r = ((encRenorm Config.precision iv' p).1 ++ q.1, q.2) := by
  rw [encSymbols]
  cases arNarrow S (st.cumAt k) (st.cumAt (k + 1)) iv with
  | error e => simp
  | ok iv' =>
    cases hq : encSymbols st S ks (encRenorm Config.precision iv' p).2.1 (encRenorm Config.precision iv' p).2.2 with
    | error e => simp [hq]
    | ok q => simp only [hq, Except.ok.injEq, exists_eq_left', eq_comm (a := r)]

/-- The flush emits `low` itself (R241). -/
theorem flushBits_eq (iv : Interval) (p : Nat) : flushBits iv p = withPending p (uBits iv.low Config.precision) := rfl

theorem Interval.Ok.admits_low {iv : Interval} (hok : iv.Ok) : iv.Admits (uBits iv.low Config.precision) := by
  have hwindow : arWindow (uBits iv.low Config.precision) = iv.low := by
    rw [arWindow, List.take_of_length_le (uBits_length _ _).le, Config.precision, uVal_uBits (hok.le.trans_lt hok.lt)]
  exact ⟨(uBits_length _ _).ge, hwindow.ge, hwindow.trans_le hok.le⟩

theorem encSymbols_feeds {t : Table} (hwf : t.wf) (hv : t.valid = true) {idx : List Nat} (hidx : ∀ k ∈ idx, k < t.size)
    {iv : Interval} (hok : iv.Ok) {p : Nat} {r : BitSeq × Interval × Nat}
    (h : encSymbols (arBuild t) t.total idx iv p = .ok r) :
    ∃ ys, iv.Admits ys ∧ withPending p ys = r.1 ++ flushBits r.2.1 r.2.2 ∧ ∀ fd, Feeds fd ys → ArFinds t idx iv fd := by
  induction idx generalizing iv p r with
  | nil =>
    obtain rfl := Except.ok.inj h
    exact ⟨_, hok.admits_low, (flushBits_eq iv p).symm, fun _ _ => trivial⟩
  | cons k ks ih =>
    obtain ⟨hk, hks⟩ := List.forall_mem_cons.mp hidx
    obtain ⟨iv', hnarrow, q, hq, rfl⟩ := encSymbols_cons_ok_iff.mp h
    obtain ⟨hok', hwithin⟩ := arNarrow_within hwf hv hok hk hnarrow
    obtain ⟨ys', hadmits', hemits', hfinds⟩ := ih hks (encRenorm_ok Config.precision hok' p) hq
    obtain ⟨ys, hadmits, hemits, hfeeds⟩ := encRenorm_feeds Config.precision hok' p hadmits'
    refine ⟨ys, ⟨hadmits.long, hwithin _ hadmits.has⟩, ?_, fun fd hfd => ⟨?_, iv', hnarrow, ?_⟩⟩
    · rw [hemits, hemits', List.append_assoc]
    · exact arFind_of_narrow hwf hv hok hk hnarrow (hfd.value ▸ hadmits.has)
    · obtain ⟨hiv, hfd'⟩ := hfeeds fd hfd
      exact hiv ▸ hfinds _ hfd'

/-- The message's indices found, the decode gives the message when there is room for it (R246). -/
theorem ArFinds.decode {t : Table} {eom : Byte} {e : Nat} (he : t.symAt e = eom) {pre : List Nat}
    (hpre : ∀ i ∈ pre, t.symAt i ≠ eom) {iv : Interval} {fd : BitFeed} (h : ArFinds t (pre ++ [e]) iv fd) (room : Nat) :
    (pre.length < room → arDecode (arBuild t) t eom room iv fd = .ok ((pre ++ [e]).map t.symAt)) ∧
    (room ≤ pre.length → arDecode (arBuild t) t eom room iv fd = .error .txFull) := by
  induction pre generalizing iv fd room with
  | nil =>
    obtain ⟨hfind, -⟩ := h
    cases room with
    | zero => exact ⟨nofun, fun _ => arDecode_full hfind⟩
    | succ room => exact ⟨fun _ => (arDecode_eom hfind he room).trans (by rw [← he]; rfl), nofun⟩
  | cons k pre ih =>
    obtain ⟨hk, hpre'⟩ := List.forall_mem_cons.mp hpre
    obtain ⟨hfind, iv', hnarrow, hrest⟩ := h
    cases room with
    | zero => exact ⟨nofun, fun _ => arDecode_full hfind⟩
    | succ room =>
      obtain ⟨hfits, hfull⟩ := ih hpre' hrest room
      rw [arDecode_next hfind hk hnarrow]
      exact ⟨fun hroom => by rw [hfits (Nat.lt_of_succ_lt_succ hroom)]; rfl,
        fun hroom => by rw [hfull (Nat.le_of_succ_le_succ hroom)]; rfl⟩

theorem arStart_ok : arStart.Ok := ⟨Nat.zero_le _, Nat.lt_succ_self _⟩

theorem arStart_has {v : Nat} (h : v < 2 ^ 53) : arStart.Has v := ⟨Nat.zero_le _, Nat.le_of_lt_succ h⟩

theorem arEncode_ok_iff {st : ArState} {S : Nat} {idx : List Nat} {out : BitSeq} :
    arEncode st S idx = .ok out ↔
      ∃ r, encSymbols st S idx arStart 0 = .ok r ∧ out = trimZeros (r.1 ++ flushBits r.2.1 r.2.2) := by
  rw [arEncode]
  cases encSymbols st S idx arStart 0 <;> simp [eq_comm]

/-- The decoder finds the symbols that the encoder encoded. -/
theorem arEncode_finds {t : Table} (hwf : t.wf) (hv : t.valid = true) {idx : List Nat} (hidx : ∀ k ∈ idx, k < t.size)
    {out : BitSeq} (h : arEncode (arBuild t) t.total idx = .ok out) :
    ArFinds t idx arStart (BitFeed.fill Config.precision { v := 0, rest := out }) := by
  obtain ⟨r, hr, rfl⟩ := arEncode_ok_iff.mp h
  obtain ⟨ys, hadmits, hemits, hfinds⟩ := encSymbols_feeds hwf hv hidx arStart_ok hr
  rw [← hemits, withPending_zero]
  exact hfinds _ (feeds_fill (trimZeros_getD ys) hadmits.long)

/-- The message's indices are those of symbols other than EOM, and then EOM's. -/
theorem exists_split_arMessage {t : Table} {eom : Byte} {text : Text} {idx : List Nat}
    (h : idx.map t.symAt = arMessage eom text) :
    ∃ pre e, idx = pre ++ [e] ∧ t.symAt e = eom ∧ ∀ i ∈ pre, t.symAt i ≠ eom := by
  obtain ⟨pre, last, rfl, hpre, hlast⟩ := List.map_eq_append_iff.mp h
  obtain ⟨e, rfl, he⟩ := List.map_eq_singleton_iff.mp hlast
  refine ⟨pre, e, rfl, he, fun i hi => ?_⟩
  have hmem := hpre ▸ List.mem_map_of_mem (f := t.symAt) hi
  simpa using List.mem_takeWhile_imp hmem

theorem arDecode_arEncode {t : Table} (hwf : t.wf) (hv : t.valid = true) {eom : Byte} {text : Text} {idx : List Nat}
    (hidx : t.lookupAll (arMessage eom text) = some idx) {out : BitSeq}
    (h : arEncode (arBuild t) t.total idx = .ok out) (room : Nat) :
    ((arMessage eom text).length ≤ room →
      arDecode (arBuild t) t eom room arStart (BitFeed.fill Config.precision { v := 0, rest := out }) =
        .ok (arMessage eom text)) ∧
    (room < (arMessage eom text).length →
      arDecode (arBuild t) t eom room arStart (BitFeed.fill Config.precision { v := 0, rest := out }) =
        .error .txFull) := by
  obtain ⟨hlt, hsym⟩ := lookupAll_symAt hidx
  obtain ⟨pre, e, rfl, he, hpre⟩ := exists_split_arMessage hsym
  obtain ⟨hfits, hfull⟩ := (arEncode_finds hwf hv hlt h).decode he hpre room
  rw [← hsym, List.length_map, List.length_append, List.length_singleton]
  exact ⟨hfits, fun hroom => hfull (Nat.le_of_lt_succ hroom)⟩

/-- Settles O47: the decoder that reads what the encoder emitted finds its symbols; on any other stream it finds some symbol
at each turn. -/
theorem arithmeticRoundTripAndErrors : Obligations.ArithmeticRoundTripAndErrors := by
  refine ⟨fun s t a b d hs hd h herr => ?roundTrip, fun s a b hs ha hb htable heom hbuilt => ?anyStream⟩
  case roundTrip =>
    obtain ⟨u, hu, rfl⟩ := exec_ok h herr
    obtain ⟨ha, -, htable, heom, idx, hidx, out, hout, -, rfl⟩ := ruleEncArith_ok_iff.mp hu
    obtain ⟨hfits, hfull⟩ := arDecode_arEncode hs.table htable hidx hout s.cap.tcap
    have htx := lt_tx_length hs.buffers hd
    have hread := getBs_setBs_same s.mem a out (lt_bs_length hs.buffers ha)
    refine ⟨fun hroom => exec_decode_gives htx (ruleDecArith_eq hd ha htable heom rfl) ?_,
      fun hroom => exec_decode_fails htx (ruleDecArith_eq hd ha htable heom rfl) ?_⟩
    · exact (congrArg (fun bs => arDecode (arBuild s.table) s.table s.eom s.cap.tcap arStart
        (BitFeed.fill Config.precision { v := 0, rest := bs })) hread).trans (hfits hroom)
    · exact (congrArg (fun bs => arDecode (arBuild s.table) s.table s.eom s.cap.tcap arStart
        (BitFeed.fill Config.precision { v := 0, rest := bs })) hread).trans (hfull hroom)
  case anyStream =>
    obtain ⟨-, har⟩ := hs.derived.2.2 hbuilt
    obtain ⟨hok, herr⟩ := exec_decodes (i := .decArith a b) (lt_tx_length hs.buffers ha)
      (ruleDecArith_eq ha hb htable heom hbuilt)
    rw [har] at hok herr
    obtain ⟨y, hy, hnotin, hlen, hsyms⟩ | hfull :=
      arDecode_ends hs.table htable s.eom s.cap.tcap arStart_ok (arStart_has (fill_lt (s.mem.getBs b)))
    · obtain ⟨t, hexec, hwritten, ht⟩ := hok _ hy
      exact ⟨t, hexec, .inl ⟨hwritten, y, ht, hnotin, hlen, hsyms⟩⟩
    · obtain ⟨t, hexec, herr⟩ := herr _ hfull
      exact ⟨t, hexec, .inr herr⟩

end Sys2Proof.Machine
end

section
/-! PROOFS. The Huffman code (45_huffman.md R199): a path ends at one leaf, each leaf ends one path from the root, and node
ids fall along a path, so a long enough bit sequence reaches a leaf. -/

namespace Sys2Proof.Machine

/-! ### The number of merges -/

theorem hufMerges_length (w : Nat → Nat) {m : Nat} (k : Nat) {ls : List Nat} {q : List (Nat × Nat)}
    (hlen : ls.length + q.length = m + 1) : (hufMerges w m k ls q).length = m := by
  induction m generalizing k ls q with
  | zero => rfl
  | succ m ih =>
    obtain ⟨c, hc⟩ := exists_hufPick w (ls := ls) (q := q) (by omega)
    have hlength := (hufPick_perm hc).length_eq
    simp only [hufQueue_length, List.length_cons] at hlength
    rw [hufMerges_succ hc, List.length_cons, ih (k + 1) (by simp; omega)]

theorem hufChildren_length {ws : List Nat} (h : 0 < ws.length) : (hufChildren ws).length = ws.length - 1 :=
  hufMerges_length _ _ (by simp; omega)

/-! ### Paths from a node -/

theorem HufLeads.leaf_lt {n : Nat} {kids : List (Nat × Nat)} {x i : Nat} {p : BitSeq} (h : HufLeads n kids x p i) :
    i < n := by
  induction p generalizing x with
  | nil => exact h.2 ▸ h.1
  | cons b p ih => exact ih h.2

/-- A path to a leaf goes no further, so no path from the same node to another leaf begins with it. -/
theorem HufLeads.leaf_eq_of_prefix {n : Nat} {kids : List (Nat × Nat)} {x i j : Nat} {p r : BitSeq}
    (hp : HufLeads n kids x p i) (hr : HufLeads n kids x r j) (hpr : p <+: r) : i = j := by
  induction p generalizing x r with
  | nil =>
    obtain ⟨hx, rfl⟩ := hp
    cases r with
    | nil => exact hr.2
    | cons b r => exact absurd hr.1 (Nat.not_le_of_lt hx)
  | cons b p ih =>
    obtain ⟨s, rfl⟩ := hpr
    exact ih hp.2 hr.2 (List.prefix_append p s)

/-- Ids fall along a path, so a node reaches a leaf within as many bits as there are ids of internal nodes up to its own. -/
theorem exists_prefix_leads {n : Nat} {kids : List (Nat × Nat)} (hfall : ∀ x, n ≤ x → ∀ b, hufKid n kids x b < x)
    {bits : BitSeq} {x : Nat} (hx : x < n + bits.length) : ∃ p i, p <+: bits ∧ HufLeads n kids x p i := by
  induction bits generalizing x with
  | nil => exact ⟨[], x, List.nil_prefix, hx, rfl⟩
  | cons b bits ih =>
    by_cases hleaf : x < n
    · exact ⟨[], x, List.nil_prefix, hleaf, rfl⟩
    · have hnode := Nat.le_of_not_lt hleaf
      have hkid := hfall x hnode b
      rw [List.length_cons] at hx
      obtain ⟨p, i, hp, hlead⟩ := ih (x := hufKid n kids x b) (by omega)
      exact ⟨b :: p, i, List.cons_prefix_cons.mpr ⟨rfl, hp⟩, hnode, hlead⟩

/-! ### One path to each leaf -/

/-- No leaf is below two of the nodes `xs`, nor by two paths below one of them. -/
def HufUniquePaths (n : Nat) (kids : List (Nat × Nat)) (xs : List Nat) : Prop :=
  ∀ x ∈ xs, ∀ y ∈ xs, ∀ (p r : BitSeq) (i : Nat),
    HufLeads n kids x p i → HufLeads n kids y r i → x = y ∧ p = r

/-- Two nodes with paths unique below them have a parent with paths unique below it. -/
theorem HufUniquePaths.merge {n : Nat} {kids : List (Nat × Nat)} {k : Nat} {xs ys : List Nat}
    (h : HufUniquePaths n kids (hufKid n kids k false :: hufKid n kids k true :: xs))
    (hnodup : (hufKid n kids k false :: hufKid n kids k true :: xs).Nodup) (hk : n ≤ k)
    (hys : ∀ y ∈ ys, y ∈ xs ∨ y = k) : HufUniquePaths n kids ys := by
  simp only [List.nodup_cons, List.mem_cons, not_or] at hnodup
  obtain ⟨⟨hdistinct, hfalse⟩, htrue, -⟩ := hnodup
  have hmem (b : Bool) : hufKid n kids k b ∈ hufKid n kids k false :: hufKid n kids k true :: xs := by
    cases b <;> simp
  have hrest {y : Nat} (hy : y ∈ xs) : y ∈ hufKid n kids k false :: hufKid n kids k true :: xs := by simp [hy]
  have hinj {b c : Bool} (hbc : hufKid n kids k b = hufKid n kids k c) : b = c := by
    cases b <;> cases c
    · rfl
    · exact absurd hbc hdistinct
    · exact absurd hbc.symm hdistinct
    · rfl
  have hcross {y : Nat} (hy : y ∈ xs) {p r : BitSeq} {i : Nat} (hp : HufLeads n kids k p i)
      (hr : HufLeads n kids y r i) : False := by
    cases p with
    | nil => exact absurd hp.1 (Nat.not_lt_of_le hk)
    | cons b p =>
      obtain ⟨rfl, -⟩ := h _ (hmem b) y (hrest hy) p r i hp.2 hr
      cases b
      · exact hfalse hy
      · exact htrue hy
  intro x hx y hy p r i hp hr
  rcases hys x hx with hx | rfl <;> rcases hys y hy with hy | rfl
  · exact h x (hrest hx) y (hrest hy) p r i hp hr
  · exact (hcross hx hr hp).elim
  · exact (hcross hy hp hr).elim
  · match p, r with
    | [], _ => exact absurd hp.1 (Nat.not_lt_of_le hk)
    | _ :: _, [] => exact absurd hr.1 (Nat.not_lt_of_le hk)
    | b :: p, c :: r =>
      obtain ⟨hbc, rfl⟩ := h _ (hmem b) _ (hmem c) p r i hp.2 hr.2
      exact ⟨rfl, by rw [hinj hbc]⟩

theorem hufQueue_push_perm (ls : List Nat) (q : List (Nat × Nat)) (k v : Nat) :
    (hufQueue ls (q ++ [(k, v)])).Perm (k :: hufQueue ls q) := by
  simp only [hufQueue, List.map_append, List.map_singleton, ← List.append_assoc]
  exact List.perm_append_singleton k _

theorem hufKid_of_split {n : Nat} {prior rest : List (Nat × Nat)} {x y : Nat} (b : Bool) :
    hufKid n (prior ++ (x, y) :: rest) (n + prior.length) b = if b then y else x := by
  cases b <;> simp [hufKid]

/-- Each merge keeps the paths below the queued nodes unique, down to the last node. -/
theorem hufMerges_uniquePaths {n : Nat} {kids prior : List (Nat × Nat)} {w : Nat → Nat} {m k : Nat} {ls : List Nat}
    {q : List (Nat × Nat)} (hkids : kids = prior ++ hufMerges w m k ls q) (hk : k = n + prior.length)
    (hlen : ls.length + q.length = m + 1) (hlast : k - 1 ∈ hufQueue ls q) (hlt : ∀ x ∈ hufQueue ls q, x < k)
    (hnodup : (hufQueue ls q).Nodup) (hunique : HufUniquePaths n kids (hufQueue ls q)) :
    HufUniquePaths n kids [k + m - 1] := by
  induction m generalizing k ls q prior with
  | zero =>
    obtain ⟨y, hy⟩ := List.length_eq_one_iff.mp ((hufQueue_length ls q).trans hlen)
    rw [hy, List.mem_singleton] at hlast
    rwa [Nat.add_zero, hlast, ← hy]
  | succ m ih =>
    obtain ⟨c, hc⟩ := exists_hufPick w (ls := ls) (q := q) (by omega)
    have hperm := hufPick_perm hc
    have hlength := hperm.length_eq
    simp only [hufQueue_length, List.length_cons] at hlength
    rw [hufMerges_succ hc] at hkids
    have hkid (b : Bool) : hufKid n kids k b = if b then c.c1 else c.c0 := by rw [hkids, hk, hufKid_of_split]
    have hkept {x : Nat} (hx : x ∈ hufQueue c.leaves c.nodes) : x < k :=
      hlt x ((mem_hufQueue_of_hufPick hc).mpr (.inr (.inr hx)))
    have hnext := ih (prior := prior ++ [(c.c0, c.c1)]) (k := k + 1) (ls := c.leaves) (q := c.nodes ++ [(k, c.sum)])
      (by rw [hkids, List.append_assoc]; rfl) (by simp; omega) (by simp; omega)
      (mem_hufQueue_push.mpr (.inr rfl)) ?lt ?nodup ?unique
    case lt =>
      intro x hx
      rcases mem_hufQueue_push.mp hx with hx | rfl
      · exact (hkept hx).trans (Nat.lt_succ_self k)
      · exact Nat.lt_succ_self x
    case nodup =>
      have hrest := ((hperm.nodup_iff.mp hnodup).of_cons).of_cons
      exact (hufQueue_push_perm ..).nodup_iff.mpr (List.nodup_cons.mpr ⟨fun hx => (hkept hx).false, hrest⟩)
    case unique =>
      have hold : (hufQueue ls q).Perm (hufKid n kids k false :: hufKid n kids k true :: hufQueue c.leaves c.nodes) := by
        rw [hkid, hkid]
        exact hperm
      refine HufUniquePaths.merge (fun x hx y hy => ?_) (hold.nodup_iff.mp hnodup) (by omega)
        (fun y hy => mem_hufQueue_push.mp hy)
      exact hunique x (hold.mem_iff.mpr hx) y (hold.mem_iff.mpr hy)
    rwa [show k + (m + 1) - 1 = k + 1 + m - 1 by omega]

/-! ### The tree of a list of weights -/

theorem hufRoot_of_two_le {n : Nat} (h : 2 ≤ n) : hufRoot n = n + (n - 1) - 1 := by
  rw [hufRoot, if_neg (by omega)]
  omega

theorem hufUniquePaths_of_leaves {n : Nat} {kids : List (Nat × Nat)} {xs : List Nat} (h : ∀ x ∈ xs, x < n) :
    HufUniquePaths n kids xs := by
  have hstop {x : Nat} (hx : x ∈ xs) {p : BitSeq} {i : Nat} (hp : HufLeads n kids x p i) : p = [] ∧ x = i := by
    cases p with
    | nil => exact ⟨rfl, hp.2⟩
    | cons b p => exact absurd hp.1 (Nat.not_le_of_lt (h x hx))
  intro x hx y hy p r i hp hr
  obtain ⟨rfl, rfl⟩ := hstop hx hp
  obtain ⟨rfl, rfl⟩ := hstop hy hr
  exact ⟨rfl, rfl⟩

theorem hufChildren_uniquePath {ws : List Nat} (h : 2 ≤ ws.length) {p r : BitSeq} {i : Nat}
    (hp : HufLeads ws.length (hufChildren ws) (hufRoot ws.length) p i)
    (hr : HufLeads ws.length (hufChildren ws) (hufRoot ws.length) r i) : p = r := by
  have hqueue {x : Nat} := (mem_hufQueue_initial (ws := ws) (x := x)).mp
  have hnodup : (hufQueue (stableSortDesc ws).reverse []).Nodup := by
    simpa [hufQueue] using (stableSortDesc_perm ws).nodup_iff.mpr List.nodup_range
  have hunique := hufMerges_uniquePaths (kids := hufChildren ws) (prior := []) rfl rfl (by simp; omega)
    (mem_hufQueue_initial.mpr (by omega)) (fun _ => hqueue) hnodup (hufUniquePaths_of_leaves fun _ => hqueue)
  rw [← hufRoot_of_two_le h] at hunique
  exact (hunique _ List.mem_cons_self _ List.mem_cons_self p r i hp hr).2

/-! ### The statement -/

theorem hufCodes_not_prefix {ws : List Nat} (h : 2 ≤ ws.length) {i j : Nat} (hi : i < ws.length) (hj : j < ws.length)
    (hij : i ≠ j) : ¬ (hufCodes ws).getD i [] <+: (hufCodes ws).getD j [] :=
  fun hprefix => hij ((hufCodes_leads h hi).2.leaf_eq_of_prefix (hufCodes_leads h hj).2 hprefix)

theorem exists_hufCode_prefix {ws : List Nat} (h : 2 ≤ ws.length) {bits : BitSeq} (hbits : ws.length ≤ bits.length) :
    ∃ i, i < ws.length ∧ (hufCodes ws).getD i [] <+: bits := by
  have hroot : hufRoot ws.length < ws.length + bits.length := by
    rw [hufRoot_of_two_le h]
    omega
  obtain ⟨p, i, hp, hlead⟩ := exists_prefix_leads (fun x hx b => hufKid_lt (by omega) hx b) hroot
  have hi := hlead.leaf_lt
  exact ⟨i, hi, hufChildren_uniquePath h (hufCodes_leads h hi).2 hlead ▸ hp⟩

/-- Settles O50: a code is the one path from the root to its leaf, and every long enough bit sequence begins with a path to
a leaf. -/
theorem huffmanCodeIsPrefixFreeAndComplete : Obligations.HuffmanCodeIsPrefixFreeAndComplete := by
  intro t hv hwf
  obtain ⟨hpos, hsize, -⟩ := hwf hv
  rw [← Table.weights_length hsize] at hpos ⊢
  refine ⟨hufChildren_length hpos, hufCodes_length t.weights, fun i j hi hj hij => ?_,
    fun htwo bits hbits => exists_hufCode_prefix htwo hbits⟩
  exact hufCodes_not_prefix (by omega) hi hj hij

end Sys2Proof.Machine
end

section
/-! PROOFS. The range coder's progress (47_arithmetic.md R235 to R247): every turn of the renormalization doubles the range
until the loop's exit, where it is wider than any sum of weights, so narrowing fails on weight 0 alone. -/

namespace Sys2Proof.Machine

/-! ### Narrowing (R238) -/

section
variable {S : Nat} {iv : Interval} {lo hi : Nat}

/-- In a range of at least `S` the floors of different bounds differ. -/
theorem arOffset_lt (hS : 0 < S) (hrange : S ≤ iv.high - iv.low + 1) (h : lo < hi) :
    arOffset S iv lo < arOffset S iv hi :=
  calc arOffset S iv lo
    _ < ((iv.high - iv.low + 1) * lo + S) / S := by rw [Nat.add_div_right _ hS]; exact Nat.lt_succ_self _
    _ ≤ ((iv.high - iv.low + 1) * (lo + 1)) / S := Nat.div_le_div_right (Nat.add_le_add_left hrange _)
    _ ≤ arOffset S iv hi := Nat.div_le_div_right (Nat.mul_le_mul_left _ h)

theorem arNarrow_of_lt (hS : 0 < S) (hrange : S ≤ iv.high - iv.low + 1) (h : lo < hi) :
    arNarrow S lo hi iv = .ok { low := iv.low + arOffset S iv lo, high := iv.low + arOffset S iv hi - 1 } :=
  arNarrow_ok_iff.mpr ⟨arOffset_lt hS hrange h, rfl⟩

theorem arNarrow_self (S x : Nat) (iv : Interval) : arNarrow S x x iv = .error .iInterval := if_pos le_rfl

end

/-- Settles O53: a range above 2^51 is at least the sum, so the floors of different bounds differ. -/
theorem narrowingFailsOnlyOnWeightZero : Obligations.NarrowingFailsOnlyOnWeightZero := by
  intro S lo hi iv hS hS32 hle hhi hiv hwide
  have hrange : S ≤ iv.high - iv.low + 1 := by omega
  refine ⟨⟨fun herr => ?fails, fun h => h ▸ arNarrow_self S lo iv⟩, fun hlt => ?narrows⟩
  case fails =>
    by_contra hne
    rw [arNarrow_of_lt hS hrange (Nat.lt_of_le_of_ne hle hne)] at herr
    cases herr
  case narrows =>
    have hoffsets := arOffset_lt (iv := iv) hS hrange hlt
    have htop := arOffset_le (iv := iv) hhi
    refine ⟨_, arNarrow_of_lt hS hrange hlt, Nat.sub_add_cancel ?_, rfl, ?_⟩
    · omega
    · dsimp only
      omega

/-! ### The case of a turn (R239) -/

section
variable {iv : Interval} (hok : iv.Ok)
include hok

theorem renormCase_eq_top {b : Bool} (hlo : b.toNat * 2 ^ 52 ≤ iv.low) (hhi : iv.high < b.toNat * 2 ^ 52 + 2 ^ 52) :
    renormCase iv = .top b := by
  obtain ⟨hle, hlt⟩ := hok
  have hbit : ∀ x, iv.low ≤ x → x ≤ iv.high → topBit x = b := by
    intro x hlow hhigh
    rw [topBit_eq (by omega)]
    cases b <;> simp only [Bool.toNat_true, Bool.toNat_false] at hlo hhi
    · exact decide_eq_false (by omega)
    · exact decide_eq_true (by omega)
  have hlow := hbit iv.low le_rfl hle
  rw [renormCase, if_pos (hlow.trans (hbit iv.high hle le_rfl).symm), hlow]

theorem renormCase_eq_under (hlo : 2 ^ 51 ≤ iv.low) (hlo' : iv.low < 2 ^ 52) (hhi : 2 ^ 52 ≤ iv.high)
    (hhi' : iv.high < 3 * 2 ^ 51) : renormCase iv = .under := by
  have hlow : topBit iv.low = false := by rw [topBit_eq (by omega)]; exact decide_eq_false (by omega)
  have hhigh : topBit iv.high = true := by rw [topBit_eq hok.lt]; exact decide_eq_true hhi
  have hlow' : secondBit iv.low = true := by rw [secondBit_eq]; exact decide_eq_true (by omega)
  have hhigh' : secondBit iv.high = false := by rw [secondBit_eq]; exact decide_eq_false (by omega)
  rw [renormCase, if_neg (by rw [hlow, hhigh]; decide), if_pos ⟨hlow, hlow', hhigh, hhigh'⟩]

/-- Where the loop ends the half lies in the interval, and the interval reaches out of the middle half. -/
theorem renormCase_done (h : renormCase iv = .done) :
    iv.low < 2 ^ 52 ∧ 2 ^ 52 ≤ iv.high ∧ (iv.low < 2 ^ 51 ∨ 3 * 2 ^ 51 ≤ iv.high) := by
  have hnotTop (b : Bool) : ¬ (b.toNat * 2 ^ 52 ≤ iv.low ∧ iv.high < b.toNat * 2 ^ 52 + 2 ^ 52) := by
    rintro ⟨hlo, hhi⟩
    rw [renormCase_eq_top hok hlo hhi] at h
    cases h
  have hnotUnder : ¬ (2 ^ 51 ≤ iv.low ∧ iv.low < 2 ^ 52 ∧ 2 ^ 52 ≤ iv.high ∧ iv.high < 3 * 2 ^ 51) := by
    rintro ⟨hlo, hlo', hhi, hhi'⟩
    rw [renormCase_eq_under hok hlo hlo' hhi hhi'] at h
    cases h
  have hlower := hnotTop false
  have hupper := hnotTop true
  have hlt := hok.lt
  simp only [Bool.toNat_true, Bool.toNat_false] at hlower hupper
  omega

theorem range_of_renormCase_done (h : renormCase iv = .done) : 2 ^ 51 < iv.high - iv.low + 1 := by
  obtain ⟨hlow, hhigh, hout⟩ := renormCase_done hok h
  omega

end

/-! ### One turn of coder and decoder (R239, R244) -/

/-- The decoder's supply after a turn that takes `c` off its value. -/
def BitFeed.scale (fd : BitFeed) (c : Nat) : BitFeed :=
  { v := 2 * (fd.v - c) + fd.nextBit.toNat, rest := fd.rest.tail }

section
variable {iv : Interval} (hok : iv.Ok) {fd : BitFeed} (hhas : iv.Has fd.v)
include hok hhas

theorem BitFeed.shift_eq_scale {b : Bool} (h : renormCase iv = .top b) : fd.shift = fd.scale (b.toNat * 2 ^ 52) := by
  obtain ⟨hlo, hhi⟩ := renormCase_top hok h
  rw [BitFeed.shift, shiftIn_of_half (hlo.trans hhas.low) (hhas.high.trans_lt hhi), BitFeed.scale]

theorem BitFeed.shiftUnder_eq_scale (h : renormCase iv = .under) : fd.shiftUnder = fd.scale (2 ^ 51) := by
  obtain ⟨hlo, -, -, hhi⟩ := renormCase_under hok h
  rw [BitFeed.shiftUnder, shiftIn_xor_of_middle (hlo.trans hhas.low) (hhas.high.trans_lt hhi), BitFeed.scale]

/-- Both bounds in one half: its bit is emitted, with the pending complements, and the half is doubled. -/
theorem renorm_turn_top (f p : Nat) {b : Bool} (hlo : b.toNat * 2 ^ 52 ≤ iv.low)
    (hhi : iv.high < b.toNat * 2 ^ 52 + 2 ^ 52) :
    encRenorm (f + 1) iv p =
      (emitWithPending b p ++ (encRenorm f (iv.scale (b.toNat * 2 ^ 52)) 0).1,
        (encRenorm f (iv.scale (b.toNat * 2 ^ 52)) 0).2) ∧
    decRenorm (f + 1) iv fd = decRenorm f (iv.scale (b.toNat * 2 ^ 52)) (fd.scale (b.toNat * 2 ^ 52)) := by
  have hcase := renormCase_eq_top hok hlo hhi
  rw [encRenorm_top f p hcase, decRenorm_top f fd hcase, shift_eq_scale hok hcase,
    BitFeed.shift_eq_scale hok hhas hcase]
  exact ⟨rfl, rfl⟩

/-- Both bounds in the middle half, one on each side: one more bit is pending, and the middle half is doubled. -/
theorem renorm_turn_under (f p : Nat) (hlo : 2 ^ 51 ≤ iv.low) (hlo' : iv.low < 2 ^ 52) (hhi : 2 ^ 52 ≤ iv.high)
    (hhi' : iv.high < 3 * 2 ^ 51) :
    encRenorm (f + 1) iv p = encRenorm f (iv.scale (2 ^ 51)) (p + 1) ∧
    decRenorm (f + 1) iv fd = decRenorm f (iv.scale (2 ^ 51)) (fd.scale (2 ^ 51)) := by
  have hcase := renormCase_eq_under hok hlo hlo' hhi hhi'
  rw [encRenorm_under f p hcase, decRenorm_under f fd hcase, shiftUnder_eq_scale hok hcase,
    BitFeed.shiftUnder_eq_scale hok hhas hcase]
  exact ⟨rfl, rfl⟩

end

/-! ### The exit of the loop (R239) -/

theorem Interval.Ok.range_scale {iv : Interval} (hok : iv.Ok) {c : Nat} (hc : c ≤ iv.low) :
    (iv.scale c).high - (iv.scale c).low + 1 = 2 * (iv.high - iv.low + 1) := by
  have hle := hok.le
  dsimp only [Interval.scale]
  omega

theorem Interval.Ok.eq_arStart {iv : Interval} (hok : iv.Ok) (h : 2 ^ 53 ≤ iv.high - iv.low + 1) : iv = arStart := by
  obtain ⟨low, high⟩ := iv
  obtain ⟨-, hlt⟩ := hok
  dsimp only at hlt h
  obtain rfl : low = 0 := by omega
  obtain rfl : high = 2 ^ 53 - 1 := by omega
  rfl

theorem renormCase_arStart : renormCase arStart = .done := by decide

/-- A turn doubles the range, which is at most 2^53: as many turns as it can be doubled reach the exit. -/
theorem encRenorm_done_of_le (f : Nat) {iv : Interval} (hok : iv.Ok) (p : Nat)
    (h : 2 ^ 53 ≤ 2 ^ f * (iv.high - iv.low + 1)) : renormCase (encRenorm f iv p).2.1 = .done := by
  induction f generalizing iv p with
  | zero =>
    obtain rfl := hok.eq_arStart (by rwa [Nat.pow_zero, Nat.one_mul] at h)
    exact renormCase_arStart
  | succ f ih =>
    rw [Nat.pow_succ (m := f), Nat.mul_assoc] at h
    cases hcase : renormCase iv with
    | top b =>
      rw [encRenorm_top f p hcase]
      refine ih (hok.shift hcase) 0 ?_
      rwa [shift_eq_scale hok hcase, hok.range_scale (renormCase_top hok hcase).1]
    | under =>
      rw [encRenorm_under f p hcase]
      refine ih (hok.shiftUnder hcase) (p + 1) ?_
      rwa [shiftUnder_eq_scale hok hcase, hok.range_scale (renormCase_under hok hcase).1]
    | done =>
      rw [encRenorm_done (f + 1) p hcase]
      exact hcase

theorem encRenorm_exits {iv : Interval} (hok : iv.Ok) (p : Nat) :
    renormCase (encRenorm Config.precision iv p).2.1 = .done :=
  encRenorm_done_of_le Config.precision hok p (Nat.le_mul_of_pos_right _ (Nat.succ_pos _))

/-- The bits read do not decide the turns. -/
theorem decRenorm_interval (f : Nat) (iv : Interval) (p : Nat) (fd : BitFeed) :
    (decRenorm f iv fd).1 = (encRenorm f iv p).2.1 := by
  induction f generalizing iv p fd with
  | zero => rfl
  | succ f ih =>
    cases hcase : renormCase iv with
    | top b =>
      rw [encRenorm_top f p hcase, decRenorm_top f fd hcase]
      exact ih iv.shift 0 fd.shift
    | under =>
      rw [encRenorm_under f p hcase, decRenorm_under f fd hcase]
      exact ih iv.shiftUnder (p + 1) fd.shiftUnder
    | done => rw [encRenorm_done (f + 1) p hcase, decRenorm_done (f + 1) fd hcase]

/-- Settles O54: 53 turns double any range to 2^53, and the half in which the bounds lie picks the turn. -/
theorem renormalizationScalesAndReachesItsExit : Obligations.RenormalizationScalesAndReachesItsExit := by
  intro iv p fd hle hlt
  have hok : iv.Ok := ⟨hle, hlt⟩
  refine ⟨?exit, fun f c iv' fd' hlow hhigh hiv hfd => ?turns⟩
  case exit =>
    have hok' := encRenorm_ok 53 hok p
    have hdone := encRenorm_exits hok p
    obtain ⟨hlow, hhigh, -⟩ := renormCase_done hok' hdone
    exact ⟨hdone, hlow, hhigh, hok'.lt, range_of_renormCase_done hok' hdone, decRenorm_interval 53 iv p fd⟩
  case turns =>
    have hhas : iv.Has fd.v := ⟨hlow, hhigh⟩
    subst hiv hfd
    refine ⟨?_, ?_, ?_⟩
    · rintro rfl hhalf
      exact renorm_turn_top hok hhas f p (b := false) (Nat.zero_le _) hhalf
    · rintro rfl hhalf
      exact renorm_turn_top hok hhas f p (b := true) hhalf hlt
    · rintro rfl
      exact renorm_turn_under hok hhas f p

/-! ### The encoder (R245) -/

theorem encSymbols_cons_error {st : ArState} {S k : Nat} {ks : List Nat} {iv : Interval} {p : Nat} {e : Err}
    (h : arNarrow S (st.cumAt k) (st.cumAt (k + 1)) iv = .error e) : encSymbols st S (k :: ks) iv p = .error e := by
  rw [encSymbols, h]

theorem encSymbols_cons_of_narrow {st : ArState} {S k : Nat} {ks : List Nat} {iv iv' : Interval} {p : Nat}
    (h : arNarrow S (st.cumAt k) (st.cumAt (k + 1)) iv = .ok iv') :
    encSymbols st S (k :: ks) iv p =
      (encSymbols st S ks (encRenorm Config.precision iv' p).2.1 (encRenorm Config.precision iv' p).2.2).map
        (fun q => ((encRenorm Config.precision iv' p).1 ++ q.1, q.2)) := by
  rw [encSymbols, h]
  dsimp only
  cases encSymbols st S ks (encRenorm Config.precision iv' p).2.1 (encRenorm Config.precision iv' p).2.2 <;> rfl

section
variable {t : Table} (hwf : t.wf) (hv : t.valid = true)
include hwf hv

theorem arBuild_cumAt_succ {k : Nat} (hk : k < t.size) :
    (arBuild t).cumAt (k + 1) = (arBuild t).cumAt k + t.weightAt k := by
  have hk' : k < t.weights.length := by rwa [Table.weights_length (hwf hv).2.1]
  rw [arBuild_cumAt hwf hv hk, arBuild_cumAt hwf hv hk.le, List.sum_take_succ _ _ hk', Table.weightAt,
    List.getD_eq_getElem _ _ hk']

theorem arNarrow_of_weight_zero {k : Nat} (hk : k < t.size) (hw : t.weightAt k = 0) (iv : Interval) :
    arNarrow t.total ((arBuild t).cumAt k) ((arBuild t).cumAt (k + 1)) iv = .error .iInterval := by
  rw [arBuild_cumAt_succ hwf hv hk, hw, Nat.add_zero, arNarrow_self]

theorem exists_arNarrow_of_weight_pos {k : Nat} (hk : k < t.size) (hw : 0 < t.weightAt k) {iv : Interval} (hok : iv.Ok)
    (hdone : renormCase iv = .done) :
    ∃ iv', arNarrow t.total ((arBuild t).cumAt k) ((arBuild t).cumAt (k + 1)) iv = .ok iv' := by
  have hrange := range_of_renormCase_done hok hdone
  have htotal := total_lt hwf hv
  have hlt : (arBuild t).cumAt k < (arBuild t).cumAt (k + 1) := by
    rw [arBuild_cumAt_succ hwf hv hk]
    exact Nat.lt_add_of_pos_right hw
  exact ⟨_, arNarrow_of_lt (total_pos hwf hv) (by omega) hlt⟩

/-- From an interval at the loop's exit the encode loop fails on weight 0 alone. -/
theorem encSymbols_ends {idx : List Nat} (hidx : ∀ k ∈ idx, k < t.size) {iv : Interval} (hok : iv.Ok)
    (hdone : renormCase iv = .done) (p : Nat) :
    ((∀ k ∈ idx, 0 < t.weightAt k) → ∃ r, encSymbols (arBuild t) t.total idx iv p = .ok r) ∧
    ((∃ k ∈ idx, t.weightAt k = 0) → encSymbols (arBuild t) t.total idx iv p = .error .iInterval) := by
  induction idx generalizing iv p with
  | nil => exact ⟨fun _ => ⟨_, rfl⟩, fun ⟨_, hk, _⟩ => absurd hk List.not_mem_nil⟩
  | cons k ks ih =>
    obtain ⟨hk, hks⟩ := List.forall_mem_cons.mp hidx
    rw [List.forall_mem_cons, List.exists_mem_cons_iff]
    obtain hw | hw := Nat.eq_zero_or_pos (t.weightAt k)
    · exact ⟨fun ⟨hpos, _⟩ => absurd hw hpos.ne', fun _ =>
        encSymbols_cons_error (arNarrow_of_weight_zero hwf hv hk hw iv)⟩
    · obtain ⟨iv', hnarrow⟩ := exists_arNarrow_of_weight_pos hwf hv hk hw hok hdone
      have hok' := (arNarrow_within hwf hv hok hk hnarrow).1
      obtain ⟨hcodes, hfails⟩ := ih hks (encRenorm_ok Config.precision hok' p) (encRenorm_exits hok' p)
        (encRenorm Config.precision iv' p).2.2
      rw [encSymbols_cons_of_narrow hnarrow]
      refine ⟨fun ⟨_, hpos⟩ => ?_, fun hzero => ?_⟩
      · obtain ⟨r, hr⟩ := hcodes hpos
        exact ⟨_, congrArg _ hr⟩
      · exact congrArg _ (hfails (hzero.resolve_left hw.ne'))

theorem arEncode_ends {idx : List Nat} (hidx : ∀ k ∈ idx, k < t.size) :
    ((∀ k ∈ idx, 0 < t.weightAt k) → ∃ out, arEncode (arBuild t) t.total idx = .ok out) ∧
    ((∃ k ∈ idx, t.weightAt k = 0) → arEncode (arBuild t) t.total idx = .error .iInterval) := by
  obtain ⟨hcodes, hfails⟩ := encSymbols_ends hwf hv hidx arStart_ok renormCase_arStart 0
  refine ⟨fun hpos => ?_, fun hzero => ?_⟩
  · obtain ⟨r, hr⟩ := hcodes hpos
    exact ⟨_, arEncode_ok_iff.mpr ⟨r, hr, rfl⟩⟩
  · rw [arEncode, hfails hzero]

end

/-! ### The commands (R245, R247) -/

theorem ruleEncArith_eq {a b : BufIdx} {s : State} {idx : List Nat} (ha : a.toNat < s.cap.nbs)
    (hb : b.toNat < s.cap.ntb) (hvalid : s.table.valid = true) (heom : (s.table.indexOf s.eom).isSome = true)
    (hidx : s.table.lookupAll (arMessage s.eom (s.mem.getTx b)) = some idx) :
    ruleEncArith a b s = (arEncode (arBuild s.table) s.table.total idx).bind fun out =>
      storeBits a out { s with ar := arBuild s.table, valid := { s.valid with arith := true } } := by
  rw [ruleEncArith, withBs_pos ha, withTx_pos hb, withTable_pos hvalid, withEom_pos heom, withLookup_some hidx]
  cases arEncode (arBuild s.table) s.table.total idx <;> rfl

/-- Settles O40: the encode fails on weight 0 alone, and otherwise its output is stored. -/
theorem arithmeticCommandsComplete : Obligations.ArithmeticCommandsComplete := by
  intro s a b idx hs hvalid
  refine ⟨fun ha hb heom hlookup => ?enc, ?prep⟩
  case enc =>
    have hrule := ruleEncArith_eq ha hb hvalid heom hlookup
    obtain ⟨hcodes, hfails⟩ := arEncode_ends hs.table hvalid (lookupAll_symAt hlookup).1
    refine ⟨fun hpos => ?_, fun hzero => ?_⟩
    · obtain ⟨out, hout⟩ := hcodes hpos
      rw [hout] at hrule
      obtain ⟨hok, hfull⟩ := exec_stores (i := .encArith a b) hrule rfl
      refine ⟨out, hout, fun hfits => ⟨_, hok hfits, completedOk_complete rfl rfl rfl,
        getBs_setBs_same _ _ _ (lt_bs_length hs.buffers ha), streamCommit_frame _ _ _, rfl, ⟨rfl, rfl⟩, ?_,
        ⟨rfl, rfl⟩, rfl, rfl, rfl, rfl⟩, hfull⟩
      constructor <;> rfl
    · rw [hfails hzero] at hrule
      exact exec_completes_with (i := .encArith a b) hrule
  case prep =>
    refine ⟨_, exec_of_ruleOf_ok (rulePrepArith_ok_iff.mpr ⟨hvalid, rfl⟩), completedOk_complete rfl rfl rfl, rfl,
      ⟨rfl, rfl⟩, ?_, ⟨rfl, rfl⟩, rfl, rfl, rfl, rfl, arBuild_n hs.table hvalid, fun k hk =>
      arBuild_cumAt hs.table hvalid hk⟩
    constructor <;> rfl

end Sys2Proof.Machine
end

section
/-! PROOFS. What the LZ77 encoder chooses (48_lz77.md R265 to R270): the sizes it derives from the text's length, and the
match it takes at each position. -/

namespace Sys2Proof.Machine

/-! ### FloorLn (R12) and the sizes (R265) -/

/-- In an ascending list the entries up to `n` are the first ones. -/
theorem lt_length_takeWhile_le {l : List Nat} (hl : l.Pairwise (· ≤ ·)) {n k : Nat} (hk : k < l.length) :
    k < (l.takeWhile fun x => decide (x ≤ n)).length ↔ l.getD k 0 ≤ n := by
  induction l generalizing k with
  | nil => cases hk
  | cons x xs ih =>
    obtain ⟨hx, hxs⟩ := List.pairwise_cons.mp hl
    by_cases hle : x ≤ n
    · rw [List.takeWhile_cons_of_pos (by simpa using hle), List.length_cons]
      cases k with
      | zero => simpa using hle
      | succ k => simpa using ih hxs (Nat.lt_of_succ_lt_succ hk)
    · rw [List.takeWhile_cons_of_neg (by simpa using hle)]
      have hbelow : x ≤ (x :: xs).getD k 0 := by
        cases k with
        | zero => exact le_rfl
        | succ k =>
          rw [List.getD_cons_succ, List.getD_eq_getElem _ _ (Nat.lt_of_succ_lt_succ hk)]
          exact hx _ (List.getElem_mem _)
      exact ⟨fun h => absurd h (Nat.not_lt_zero k), fun h => absurd (hbelow.trans h) hle⟩

theorem lnThresholds_ascending : lnThresholds.Pairwise (· ≤ ·) := by decide

/-- FloorLn's index is the greatest whose threshold is reached; threshold 0 always is. -/
theorem le_floorLn_iff {n k : Nat} (hn : 1 ≤ n) (hk : k ≤ 22) : k ≤ floorLn n ↔ lnThresholds.getD k 0 ≤ n := by
  have hpos : 0 < (lnThresholds.takeWhile fun x => decide (x ≤ n)).length :=
    (lt_length_takeWhile_le lnThresholds_ascending (by decide)).mpr hn
  rw [← lt_length_takeWhile_le lnThresholds_ascending (show k < 23 by omega), floorLn]
  omega

theorem floorLn_le (n : Nat) : floorLn n ≤ 22 :=
  Nat.sub_le_sub_right (List.takeWhile_sublist _).length_le 1

theorem lt_iCbrt_succ_cube (n : Nat) : n < (iCbrt n + 1) ^ 3 := by
  by_contra h
  exact absurd (le_iCbrt (Nat.le_of_not_lt h)) (Nat.not_succ_le_self _)

theorem iCbrt_le {n : Nat} (hn : n < 2 ^ 32) : iCbrt n ≤ 1625 := by
  by_contra h
  have hcube : 1626 ^ 3 ≤ iCbrt n ^ 3 := Nat.pow_le_pow_left (by omega) 3
  have := iCbrt_cube_le n
  omega

/-- Settles O55: the cube root and FloorLn are the greatest of their kind, and 2^32 bounds both sizes. -/
theorem lz77SizesFollowTheLength : Obligations.Lz77SizesFollowTheLength := by
  refine ⟨⟨rfl, rfl⟩, fun n hn hlt => ?_⟩
  have hne : n ≠ 0 := by omega
  have hln := floorLn_le n
  rw [lzWindow, if_neg hne, lzLookahead, if_neg hne]
  refine ⟨iCbrt_cube_le n, lt_iCbrt_succ_cube n, iCbrt_pos hn, iCbrt_le hlt, hln, (le_floorLn_iff hn hln).mp le_rfl,
    fun k hk => (le_floorLn_iff hn hk).mpr, rfl, ?_, ?_⟩
  · omega
  · omega

/-! ### The longest match, and of the longest the nearest (R268) -/

theorem le_matchLen {la k : Nat} {xs ys : Text} (hla : k ≤ la) (hlen : k ≤ ys.length)
    (heq : ∀ j < k, xs[j]? = ys[j]?) : k ≤ matchLen la xs ys := by
  induction k generalizing la xs ys with
  | zero => exact Nat.zero_le _
  | succ k ih =>
    obtain ⟨la, rfl⟩ := Nat.exists_eq_add_of_le' (Nat.one_le_of_lt hla)
    match xs, ys with
    | _, [] => cases hlen
    | [], y :: ys => exact absurd (heq 0 k.succ_pos) (by simp)
    | x :: xs, y :: ys =>
      have hxy : x = y := by simpa using heq 0 k.succ_pos
      rw [matchLen, if_pos hxy]
      refine Nat.succ_le_succ (ih (Nat.le_of_succ_le_succ hla) (Nat.le_of_succ_le_succ hlen) fun j hj => ?_)
      simpa using heq (j + 1) (Nat.succ_lt_succ hj)

/-- How long the text from `pos` on agrees with the text `d` places back (the inner loop of R268). -/
def matchLenAt (text : Text) (la pos d : Nat) : Nat := matchLen la (text.drop (pos - d)) (text.drop pos)

theorem LzMatchAt.le_matchLenAt {text : Text} {win la pos d k : Nat} (h : LzMatchAt text win la pos (d, k)) :
    k ≤ matchLenAt text la pos d := by
  have hlen := h.inText
  refine le_matchLen h.lookahead (by rw [List.length_drop]; dsimp only at hlen; omega) fun j hj => ?_
  simpa using h.repeats j hj

/-- What the search through the distances `1, ..., n` keeps of their lengths `f` while `m` is its best match: none is longer,
the nearer ones are shorter, and with no match the distance is 0 too. -/
structure SearchKeeps (f : Nat → Nat) (n : Nat) (m : Nat × Nat) : Prop where
  longest : ∀ d, 1 ≤ d → d ≤ n → f d ≤ m.2
  nearest : ∀ d, 1 ≤ d → d < m.1 → f d < m.2
  noMatch : m.2 = 0 → m.1 = 0

theorem SearchKeeps.next {f : Nat → Nat} {n : Nat} {m : Nat × Nat} (h : SearchKeeps f n m) :
    SearchKeeps f (n + 1) (if m.2 < f (n + 1) then (n + 1, f (n + 1)) else m) := by
  split
  · rename_i hlonger
    refine ⟨fun d hd hle => ?_, fun d hd hlt => ?_, fun hzero => absurd hzero (Nat.ne_zero_of_lt hlonger)⟩
    · rcases Nat.le_succ_iff.mp hle with hle | rfl
      · exact (h.longest d hd hle).trans hlonger.le
      · exact le_rfl
    · exact (h.longest d hd (Nat.le_of_lt_succ hlt)).trans_lt hlonger
  · rename_i hnotLonger
    refine ⟨fun d hd hle => ?_, h.nearest, h.noMatch⟩
    rcases Nat.le_succ_iff.mp hle with hle | rfl
    · exact h.longest d hd hle
    · exact Nat.le_of_not_lt hnotLonger

theorem bestMatch_searchKeeps (text : Text) (win la pos : Nat) :
    SearchKeeps (matchLenAt text la pos) (min win pos) (bestMatch text win la pos) := by
  rw [bestMatch]
  induction min win pos with
  | zero => exact ⟨fun d hd hle => by omega, nofun, fun _ => rfl⟩
  | succ n ih =>
    rw [List.range_succ, List.foldl_append]
    exact ih.next

section
variable {text : Text} {win la pos : Nat}

/-- No match of the window is longer than the best. -/
theorem LzMatchAt.le_bestMatch {d k : Nat} (h : LzMatchAt text win la pos (d, k)) : k ≤ (bestMatch text win la pos).2 :=
  h.le_matchLenAt.trans
    ((bestMatch_searchKeeps text win la pos).longest d h.pos_distance (le_min h.window h.back))

/-- A match that is nearer than the best is shorter. -/
theorem LzMatchAt.lt_bestMatch {d k : Nat} (h : LzMatchAt text win la pos (d, k))
    (hd : d < (bestMatch text win la pos).1) : k < (bestMatch text win la pos).2 :=
  h.le_matchLenAt.trans_lt ((bestMatch_searchKeeps text win la pos).nearest d h.pos_distance hd)

theorem bestMatch_match (hpos : pos ≤ text.length) (h : 0 < (bestMatch text win la pos).2) :
    LzMatchAt text win la pos (bestMatch text win la pos) :=
  (bestMatch_isMatch hpos).resolve_left h.ne'

/-- The best match is a match, and every distance below its own has a mismatch within its length. -/
theorem bestMatch_nearest (hpos : pos ≤ text.length) (h : 0 < (bestMatch text win la pos).2) {d : Nat} (hd : 1 ≤ d)
    (hlt : d < (bestMatch text win la pos).1) :
    ∃ j < (bestMatch text win la pos).2, text[pos - d + j]? ≠ text[pos + j]? := by
  have hbest := bestMatch_match hpos h
  by_contra hall
  push Not at hall
  have hnear : LzMatchAt text win la pos (d, (bestMatch text win la pos).2) :=
    ⟨hd, hlt.le.trans hbest.window, hlt.le.trans hbest.back, hbest.lookahead, hbest.inText, hall⟩
  exact lt_irrefl _ (hnear.lt_bestMatch hlt)

/-! ### The token list (R267, R268) -/

/-- The two ways of saying a match are the same. -/
theorem lzMatchAt_iff {d k : Nat} (hd : 1 ≤ d) (hwin : d ≤ win) (hback : d ≤ pos) :
    LzMatchAt text win la pos (d, k) ↔ LzMatch text la pos d k := by
  have hcomm (j : Nat) : pos - d + j = pos + j - d := (Nat.sub_add_comm hback).symm
  constructor
  · rintro ⟨-, -, -, hla, hlen, hrep⟩
    exact ⟨hla, hlen, fun j hj => hcomm j ▸ hrep j hj⟩
  · rintro ⟨hla, hlen, hrep⟩
    exact ⟨hd, hwin, hback, hla, hlen, fun j hj => hcomm j ▸ hrep j hj⟩

theorem lzTokens_greedy {idx : List Nat} (hidx : idx.length = text.length) {f : Nat} (hpos : pos ≤ text.length)
    (hf : text.length ≤ pos + f) : LzGreedy text idx win la pos (lzTokens text idx win la f pos) := by
  induction f generalizing pos with
  | zero => exact le_antisymm hpos hf
  | succ f ih =>
    rw [lzTokens]
    split
    · exact le_antisymm hpos ‹_›
    rename_i hmore
    dsimp only
    split
    · rename_i hthree
      have hbest := bestMatch_match hpos (Nat.zero_lt_of_lt hthree)
      refine ⟨⟨hbest.pos_distance, hbest.window, hbest.back, hthree,
        (lzMatchAt_iff hbest.pos_distance hbest.window hbest.back).mp hbest⟩, fun e k he hwin hback hmatch => ?_,
        ih hbest.inText (by omega)⟩
      have hmatch := (lzMatchAt_iff he hwin hback).mpr hmatch
      refine ⟨hmatch.le_bestMatch, fun hlen => Nat.le_of_not_lt fun hnear => ?_⟩
      exact (hmatch.lt_bestMatch hnear).ne hlen
    · rename_i hshort
      have hget : pos < idx.length := by omega
      refine ⟨?_, fun d hd hwin hback hmatch => ?_, ih (by omega) (by omega)⟩
      · rw [List.getElem?_eq_getElem hget, List.getD_eq_getElem _ _ hget]
      · exact hshort ((lzMatchAt_iff hd hwin hback).mpr hmatch).le_bestMatch

end

/-- Settles O56: the tokens by the turns of the greedy loop, the match by the search through the distances. -/
theorem lz77TakesTheLongestNearestMatch : Obligations.Lz77TakesTheLongestNearestMatch := by
  refine ⟨fun t text idx win la hidx => ⟨?_, ?_, fun _ => rfl, fun _ _ => rfl⟩, ?_⟩
  · exact lzTokens_greedy (lookupAll_length hidx) (Nat.zero_le _) (Nat.le_add_left _ _)
  · rintro rfl rfl
    rfl
  · rintro text win la pos _ hpos rfl
    refine ⟨fun d k hd hwin hback hla hlen hrep => ?_, fun h => ?_, (bestMatch_searchKeeps text win la pos).noMatch⟩
    · exact LzMatchAt.le_bestMatch ⟨hd, hwin, hback, hla, hlen, hrep⟩
    · obtain ⟨hd, hwin, hback, hla, hlen, hrep⟩ := bestMatch_match hpos h
      exact ⟨hd, hwin, hback, hla, hlen, hrep, fun d hd hlt => bestMatch_nearest hpos h hd hlt⟩

end Sys2Proof.Machine
end

section
/-! PROOFS. What the LZW encoder chooses (49_lzw.md R285 to R289): every entry made is a string that the trie spells, and a
new one is made only where the trie spells no more, so no entry is made twice. -/

namespace Sys2Proof.Machine

/-! ### The string of a code, spelled in the trie (R285) -/

/-- The code the trie leads to along a string, from its first symbol's index on. -/
def lzwWalk (t : Table) (trie : LzwTrie) : Text → Option Nat
  | [] => none
  | c :: cs => (t.indexOf c).bind fun i => cs.foldlM (lzwChild trie) i

theorem lzwWalk_singleton (t : Table) (trie : LzwTrie) (c : Byte) : lzwWalk t trie [c] = t.indexOf c :=
  Option.bind_fun_some _

theorem lzwWalk_concat (t : Table) (trie : LzwTrie) {w : Text} (hw : w ≠ []) (c : Byte) :
    lzwWalk t trie (w ++ [c]) = (lzwWalk t trie w).bind fun k => lzwChild trie k c := by
  obtain ⟨x, xs, rfl⟩ := List.exists_cons_of_ne_nil hw
  simp [lzwWalk, List.foldlM_append, Option.bind_assoc]

/-- An entry for a string that the trie does not spell on leaves every walk as it is. -/
theorem lzwWalk_cons_trie {t : Table} {trie : LzwTrie} {cur : Nat} {c : Byte} (hnew : lzwChild trie cur c = none)
    (size : Nat) {w : Text} {k : Nat} (h : lzwWalk t trie w = some k) :
    lzwWalk t (((cur, c), size) :: trie) w = some k := by
  induction w using List.reverseRecOn generalizing k with
  | nil => cases h
  | append_singleton w d ih =>
    rcases eq_or_ne w [] with rfl | hw
    · exact h
    rw [lzwWalk_concat t _ hw] at h ⊢
    obtain ⟨p, hp, hchild⟩ := Option.bind_eq_some_iff.mp h
    rw [ih hp, Option.bind_some, lzwChild_cons, if_neg]
    · exact hchild
    · rintro ⟨rfl, rfl⟩
      rw [hnew] at hchild
      cases hchild

/-! ### What the search keeps (R287) -/

/-- A code that names a symbol names the symbol's least index. -/
def LzwLeast (t : Table) (k : Nat) : Prop := k < t.size → t.indexOf (t.symAt k) = some k

theorem lzwLeast_of_indexOf {t : Table} {c : Byte} {i : Nat} (h : t.indexOf c = some i) : LzwLeast t i := fun _ => by
  rw [(Table.indexOf_lt h).2, h]

/-- The encoder's state with what its trie is good for: it spells the string so far and every entry made, no entry was made
twice, its codes come after the symbols' indices, and of those only the least are emitted. -/
structure LzwSearch (t : Table) (ks : List Nat) (es : List Text) (cur : Nat) (w : Text) (trie : LzwTrie) : Prop
    extends LzwEncoding t ks es cur w trie where
  spells_current : lzwWalk t trie w = some cur
  spells_entries : ∀ x ∈ lzwEntries (es ++ [w]), (lzwWalk t trie x).isSome = true
  entries_nodup  : (lzwEntries (es ++ [w])).Nodup
  codes_ge       : ∀ p c k, lzwChild trie p c = some k → t.size ≤ k
  codes_least    : ∀ k ∈ ks ++ [cur], LzwLeast t k

theorem lzwSearch_start {t : Table} (hsize : t.size ≤ 256) {c : Byte} {i : Nat} (hi : t.indexOf c = some i) :
    LzwSearch t [] [] i [c] [] where
  strings := lzwStrings_nil t
  nonempty := nofun
  current_ne := by simp
  current := by
    obtain ⟨hlt, hsym⟩ := Table.indexOf_lt hi
    rw [lzwDict_of_lt hsize hlt, hsym]
  children := nofun
  spells_current := (lzwWalk_singleton t [] c).trans hi
  spells_entries := nofun
  entries_nodup := List.nodup_nil
  codes_ge := nofun
  codes_least := by simpa using lzwLeast_of_indexOf hi

namespace LzwSearch

variable {t : Table} {ks : List Nat} {es : List Text} {cur : Nat} {w : Text} {trie : LzwTrie}
  (h : LzwSearch t ks es cur w trie)
include h

theorem walk_concat (c : Byte) : lzwWalk t trie (w ++ [c]) = lzwChild trie cur c := by
  rw [lzwWalk_concat t trie h.current_ne, h.spells_current, Option.bind_some]

/-- The string so far grows along a child: only its first byte was in an entry. -/
theorem grow {c : Byte} {k : Nat} (hk : lzwChild trie cur c = some k) : LzwSearch t ks es k (w ++ [c]) trie := by
  have hfirst : (w ++ [c]).take 1 = w.take 1 := List.take_append_of_le_length (List.length_pos_iff.mpr h.current_ne)
  have hentries := lzwEntries_last hfirst es
  refine { h.toLzwEncoding.grow hk with
    spells_current := (h.walk_concat c).trans hk
    spells_entries := hentries ▸ h.spells_entries
    entries_nodup := hentries ▸ h.entries_nodup
    codes_ge := h.codes_ge
    codes_least := ?_ }
  obtain ⟨hks, -⟩ := List.forall_mem_append.mp h.codes_least
  refine List.forall_mem_append.mpr ⟨hks, List.forall_mem_singleton.mpr fun hlt => ?_⟩
  exact absurd (h.codes_ge cur c k hk) (Nat.not_le.mpr hlt)

/-- The entry that is made is new, as the trie spells all the others. -/
theorem emit (hsize : t.size ≤ 256) {c : Byte} {i : Nat} (hi : t.indexOf c = some i) (hnew : lzwChild trie cur c = none) :
    LzwSearch t (ks ++ [cur]) (es ++ [w]) i [c] (((cur, c), t.size + ks.length) :: trie) := by
  have hentries : lzwEntries (es ++ [w] ++ [[c]]) = lzwEntries (es ++ [w]) ++ [w ++ [c]] := lzwEntries_concat es w [c]
  have hgrown : lzwWalk t (((cur, c), t.size + ks.length) :: trie) (w ++ [c]) = some (t.size + ks.length) := by
    rw [lzwWalk_concat t _ h.current_ne, lzwWalk_cons_trie hnew _ h.spells_current, Option.bind_some, lzwChild_cons,
      if_pos ⟨rfl, rfl⟩]
  refine { h.toLzwEncoding.emit hsize hi with
    spells_current := (lzwWalk_singleton t _ c).trans hi
    spells_entries := ?_
    entries_nodup := ?_
    codes_ge := fun p d k hk => ?_
    codes_least := List.forall_mem_append.mpr
      ⟨h.codes_least, List.forall_mem_singleton.mpr (lzwLeast_of_indexOf hi)⟩ }
  · rw [hentries]
    refine List.forall_mem_append.mpr ⟨fun x hx => ?_, List.forall_mem_singleton.mpr (hgrown ▸ rfl)⟩
    obtain ⟨k, hk⟩ := Option.isSome_iff_exists.mp (h.spells_entries x hx)
    rw [lzwWalk_cons_trie hnew _ hk]
    rfl
  · rw [hentries, ← List.concat_eq_append]
    refine h.entries_nodup.concat fun hmem => ?_
    have hspelled := h.spells_entries _ hmem
    rw [h.walk_concat c, hnew] at hspelled
    cases hspelled
  · rw [lzwChild_cons] at hk
    split_ifs at hk
    · cases hk
      exact Nat.le_add_right _ _
    · exact h.codes_ge p d k hk

end LzwSearch

/-- The loop of R287 ends in a state of the search whose strings, with the last one, are the message. -/
theorem lzwLoop_search {t : Table} (hsize : t.size ≤ 256) {msg : Text} {ks : List Nat} {es : List Text} {cur : Nat}
    {w : Text} {trie : LzwTrie} (hmsg : ∀ c ∈ msg, (t.indexOf c).isSome = true) (h : LzwSearch t ks es cur w trie) :
    ∃ ks' es' cur' w' trie', LzwSearch t ks' es' cur' w' trie' ∧
      ks ++ (lzwLoop t msg cur trie (t.size + ks.length)).1 = ks' ++ [cur'] ∧
      (es' ++ [w']).flatten = (es ++ [w]).flatten ++ msg := by
  induction msg generalizing ks es cur w trie with
  | nil => exact ⟨ks, es, cur, w, trie, h, rfl, (List.append_nil _).symm⟩
  | cons c cs ih =>
    obtain ⟨hc, hcs⟩ := List.forall_mem_cons.mp hmsg
    rw [lzwLoop]
    cases hchild : lzwChild trie cur c with
    | some k =>
      obtain ⟨ks', es', cur', w', trie', hend, hcodes, hflat⟩ := ih hcs (h.grow hchild)
      exact ⟨ks', es', cur', w', trie', hend, hcodes, by simpa using hflat⟩
    | none =>
      obtain ⟨i, hi⟩ := Option.isSome_iff_exists.mp hc
      obtain ⟨ks', es', cur', w', trie', hend, hcodes, hflat⟩ := ih hcs (h.emit hsize hi hchild)
      rw [List.length_append, List.length_singleton, List.append_assoc] at hcodes
      rw [hi]
      exact ⟨ks', es', cur', w', trie', hend, hcodes, by simpa using hflat⟩

/-- The codes of a message come from a state of the search, unless there are none. -/
theorem lzwCodes_search {t : Table} (hsize : t.size ≤ 256) {msg : Text} {idx : List Nat}
    (hidx : t.lookupAll msg = some idx) (hmsg : msg ≠ []) :
    ∃ ks es cur w trie, LzwSearch t ks es cur w trie ∧ (lzwCodes t msg).1 = ks ++ [cur] ∧ (es ++ [w]).flatten = msg := by
  obtain ⟨c, cs, rfl⟩ := List.exists_cons_of_ne_nil hmsg
  obtain ⟨hc, hcs⟩ := List.forall_mem_cons.mp fun x hx => indexOf_isSome_of_mem hidx (c := x) hx
  obtain ⟨i, hi⟩ := Option.isSome_iff_exists.mp hc
  obtain ⟨ks, es, cur, w, trie, hend, hcodes, hflat⟩ := lzwLoop_search hsize hcs (lzwSearch_start hsize hi)
  refine ⟨ks, es, cur, w, trie, hend, ?_, hflat⟩
  rw [lzwCodes, hi]
  exact hcodes

/-! ### The statement -/

theorem length_le_flatten_length {es : List Text} (h : ∀ e ∈ es, e ≠ []) : es.length ≤ es.flatten.length := by
  rw [List.length_flatten]
  refine (List.length_map _).symm.trans_le (List.length_le_sum_of_one_le _ fun n hn => ?_)
  obtain ⟨e, he, rfl⟩ := List.mem_map.mp hn
  exact List.length_pos_iff.mpr (h e he)

/-- Settles O57: the strings are those of the state the search ends in, whose entries are pairwise different. -/
theorem lzwCodesAreTheLongestAndFit : Obligations.LzwCodesAreTheLongestAndFit := by
  intro t msg idx hvalid hwf hidx
  obtain ⟨-, hsize, -⟩ := hwf hvalid
  rcases eq_or_ne msg [] with rfl | hmsg
  · exact ⟨fun _ => rfl, fun hne => absurd rfl hne, nofun, [], lzwStrings_nil t, rfl, nofun⟩
  obtain ⟨-, -, -, hfinal⟩ := lzwCodes_strings hsize hidx
  obtain ⟨ks, es, cur, w, trie, hend, hcodes, hflat⟩ := lzwCodes_search hsize hidx hmsg
  have hstrings : LzwStrings t (ks ++ [cur]) (es ++ [w]) :=
    lzwStrings_concat.mpr ⟨hend.strings, hend.toLzwEncoding.standsFor hsize⟩
  have hlen := length_le_flatten_length
    (List.forall_mem_append.mpr ⟨hend.nonempty, List.forall_mem_singleton.mpr hend.current_ne⟩)
  rw [hflat, hstrings.1] at hlen
  rw [hfinal, hcodes]
  refine ⟨fun hnil => absurd hnil hmsg, fun _ => ⟨?_, ?_, hlen⟩, fun k hk => ⟨hstrings.lt hk, ?_, hend.codes_least k hk⟩,
    es ++ [w], hstrings, hflat, fun i j hij hj => ?_⟩
  · simp
  · rw [List.length_append, List.length_singleton]
    omega
  · exact (hstrings.lt hk).trans_le (le_two_pow_clog2 _)
  · have hdiffer := List.nodup_iff_getElem?_ne_getElem?.mp hend.entries_nodup i j hij (by simpa using hj)
    rw [lzwEntries_getElem? (by omega), lzwEntries_getElem? hj] at hdiffer
    exact fun heq => hdiffer (congrArg some heq)

end Sys2Proof.Machine
end

section
/-! PROOFS. Completion, the step and the reset (60_exceptions.md R300 to R313; 70_reset_and_hazards.md R329, R330, R340):
the sequencer's turn ends every pending command in one completion, and no other agent's turn can fail. -/

namespace Sys2Proof.Machine

/-! ### A pending command ends in one completion (R303, R313) -/

theorem Commits.cmdCount {i : Instr} {s t : State} (h : Commits s i t) : t.cmdCount = s.cmdCount := by
  cases h <;> rfl

/-- What a completion is made on top of: the state the command began in, or that state with the command's effects, which
are never on STATUS, CMDCOUNT or the host's side. -/
structure ReadyToComplete (s u : State) : Prop where
  host     : SameHostSide s u
  status   : u.status = s.status
  cmdCount : u.cmdCount = s.cmdCount

theorem readyToComplete_self (s : State) : ReadyToComplete s s where
  host := by constructor <;> rfl
  status := rfl
  cmdCount := rfl

theorem exec_completes (i : Instr) (s : State) : ∃ r u, exec i s = .next (complete r u) ∧ ReadyToComplete s u := by
  obtain ⟨t, ht⟩ := finish_answers_next s (ruleOf i s)
  rw [← exec_eq_finish] at ht
  obtain ⟨r, u, rfl, rfl | hu⟩ := exec_commits ht
  · exact ⟨r, u, ht, readyToComplete_self u⟩
  · exact ⟨r, u, ht, hu.host, hu.status, hu.cmdCount⟩

theorem sequencerStep_completes {s : State} (hbusy : s.status.busy = true) :
    ∃ r u, sequencerStep s = .next (complete r u) ∧ ReadyToComplete s u := by
  match hword : decode s.lCmd with
  | .ok i =>
    rw [sequencerStep_of_decode hbusy hword]
    exact exec_completes i s
  | .error .badOpcode => exact ⟨_, s, sequencerStep_of_illegal hbusy hword, readyToComplete_self s⟩

theorem sequencerStep_answers_next (s : State) : ∃ t, sequencerStep s = .next t := by
  cases hbusy : s.status.busy with
  | false => exact ⟨s, sequencerStep_of_idle hbusy⟩
  | true =>
    obtain ⟨r, u, h, -⟩ := sequencerStep_completes hbusy
    exact ⟨_, h⟩

theorem step_of_sequencer_to_move {s : State} {ts : List Turn} (h : s.turns = [] ∨ s.turns = .sequencer :: ts) :
    step s = sequencerStep { s with turns := s.turns.tail } := by
  rcases h with h | h
  · rw [step_of_no_turn h, h, List.tail_nil, ← h]
  · rw [step_of_sequencer h, h, List.tail_cons]

/-! ### The statements -/

/-- Settles O7: of the four turns only the sequencer's could fail, and it ends in a completion or does nothing. -/
theorem everyStepAnswersANextState : Obligations.EveryStepAnswersANextState := by
  intro s
  match hturn : s.turns with
  | [] =>
    rw [step_of_no_turn hturn]
    exact sequencerStep_answers_next s
  | .sequencer :: ts =>
    rw [step_of_sequencer hturn]
    exact sequencerStep_answers_next _
  | .host a :: ts => exact ⟨_, step_of_host hturn⟩
  | .reset :: ts => exact ⟨_, step_of_reset hturn⟩

/-- Settles O15: the completion of the pending word, on top of the command's effects. -/
theorem everyAcceptedCommandCompletes : Obligations.EveryAcceptedCommandCompletes := by
  intro s ts hturn hbusy
  obtain ⟨r, u, hstep, hready⟩ := sequencerStep_completes (s := { s with turns := s.turns.tail }) hbusy
  refine ⟨complete r u, (step_of_sequencer_to_move hturn).trans hstep, ⟨r, ?_, ?_, ?_⟩, ?_, ?_, rfl, ?_, hready.host.turns⟩
  · cases r <;> rfl
  · cases r <;> rfl
  · rw [complete_anyErr, hready.status]
  · rw [complete_lastOp, hready.host.lCmd]
  · rw [complete_cmdCount, hready.cmdCount, BitVec.toNat_add]
    rfl
  · rw [complete_ovr, hready.status]

/-- Settles O16: with ERR not 0 the rule raised an error, and its completion is of the state the command began in. -/
theorem failedCommandChangesNothingElse : Obligations.FailedCommandChangesNothingElse := by
  intro i s t h herr
  rw [exec_eq_finish] at h
  obtain ⟨u, -, rfl⟩ | ⟨e, -, rfl⟩ := finish_cases h
  · exact absurd rfl herr
  · exact ⟨e, completedWith_complete e s⟩

/-- Settles O14: both columns of the tables, row by row. -/
theorem errorCodesAreTheTables : Obligations.ErrorCodesAreTheTables := rfl

/-- Settles O5: the sequencer's turn, pending or idle. -/
theorem stepRunsThePendingCommand : Obligations.StepRunsThePendingCommand := by
  intro s i ts
  refine ⟨fun hturn hbusy hword => ?_, fun hturn hbusy hword => ?_, fun hturn hidle => ?_⟩
  · exact (step_of_no_turn hturn).trans (sequencerStep_of_decode hbusy hword)
  · exact (step_of_sequencer hturn).trans (sequencerStep_of_decode (s := { s with turns := ts }) hbusy hword)
  · exact (step_of_no_turn hturn).trans (sequencerStep_of_idle hidle)

theorem statusWord_reset : statusWord Status.reset = 0 := by decide

theorem validWord_reset : validWord Valid.reset = 3 := by decide

/-- Settles O13: the reset's state, element by element. -/
theorem resetSetsEveryElement : Obligations.ResetSetsEveryElement := by
  intro s ts hturn
  refine ⟨_, step_of_reset hturn, rfl, rfl, rfl, rfl, rfl, rfl, rfl, rfl, rfl, rfl, rfl, rfl, statusWord_reset, rfl, rfl,
    rfl, rfl, rfl, rfl, rfl, rfl, rfl, rfl, rfl, rfl, validWord_reset, rfl, rfl, rfl, rfl⟩

end Sys2Proof.Machine
end
